-- ==== Sys2Proof/Config.lean ====
section
/-! DEFINITION. The block's implementation parameters (spec/00_scope.md R5), each a named constant with the value
R5's table gives it, and the two constants that R5 leaves to the environment (no body: nothing can be proved about
their value). The small types those constants range over stand here too. -/

namespace Sys2Proof

/-- The electrical level of an input line (R6, R27). -/
inductive Level where
  | low
  | high
deriving DecidableEq, Repr

/-- The other electrical level. -/
def Level.flip : Level → Level
  | .low => .high
  | .high => .low

/-- The two channel decoders (R20): `L` is "left", `R` is "right". -/
inductive Channel where
  | L
  | R
deriving DecidableEq, Repr

/-- The channel that is not `c`. -/
def Channel.other : Channel → Channel
  | .L => .R
  | .R => .L

/-- The two directions of a clock-line transition (R5 `SCK_EDGE`, R83). -/
inductive ClockEdge where
  | rising
  | falling
deriving DecidableEq, Repr

/-- How a special-mode mask is tested against the control register (R131, decision D13 of the spec):
`all` of its bits, or `any` of them. -/
inductive ModeTest where
  | all
  | any
deriving DecidableEq, Repr

namespace Config

/-- `N_CH`: the number of channels (R5). -/
abbrev nCh : Nat := 2

/-- `CH_ADDR`: the physical channel addresses, identifiers only (R5, R50, R221). Nothing decodes them. -/
def chAddr : Channel → Nat
  | .L => 4
  | .R => 5

/-- `SB_W`: the width of `shiftBuffer` (R5). -/
abbrev sbW : Nat := 32

/-- `BC_W`: the width of `bitCount`, which wraps modulo 2^8 (R5, R23). -/
abbrev bcW : Nat := 8

/-- `CTRL_W`: the width of `controlRegister` (R5). -/
abbrev ctrlW : Nat := 8

/-- `DISP_W`: the storage width of `displayRegister` (R5, R25). -/
abbrev dispW : Nat := 32

/-- `CTRL_LEN`: the frame length that commits the control register (R5). -/
abbrev ctrlLen : Nat := 8

/-- `DISP_LEN`: the frame length that commits the display register (R5). -/
abbrev dispLen : Nat := 24

/-- `CNT_W`: the width of the diagnostic update counters (R5, R26). -/
abbrev cntW : Nat := 32

/-- `CS_ACTIVE`: the level of an asserted chip-select line (R5, R13). -/
def csActive : Level := .low

/-- `SCK_EDGE`: the clock transition that samples data (R5, R83). -/
def sckEdge : ClockEdge := .rising

/-- `DATA_ONE`: the level of the data line that is read as bit 1 (R5, R107). -/
def dataOne : Level := .high

/-- `MODE_MASK`: the special-mode mask of the low (0), middle (1) and high (2) glyph (R5, R131). -/
def modeMask : Fin 3 → BitVec ctrlW
  | 0 => 0x42
  | 1 => 0x44
  | 2 => 0x48

/-- `MODE_TEST`: how a mask is tested; the spec's value is `all` (R5, R131). Every function that depends on it takes
the reading as an argument, so that a statement can be made for both; the machine's meanings pass this constant. -/
def modeTest : ModeTest := .all

/-- `LOSSY_EDGES`: whether a delivered edge may be dropped; the spec's value is false (R5, R214). -/
def lossyEdges : Bool := false

/-- Where `LOSSY_EDGES` is true, which deliveries the host drops: the n-th word delivered, counted from 0, is
dropped where this says so and the word is an edge (R214). A free value: the spec says only that any delivered edge
may be dropped. Assumption log 4. -/
opaque edgeDropped : Nat → Bool

/-- `POLL_PERIOD`: the interval between poll ticks, OPEN in the spec (R5, R206). The model has no time (R9) and nothing
reads it; it is named so that every parameter of R5 has its constant. Assumption log 11. -/
opaque pollPeriod : Nat

end Config

end Sys2Proof
end

