-- ==== Sys2Proof/Word.lean ====
section
/-! DEFINITION. The word types of the block: one abbreviation per register width of spec/00_scope.md R5, and the
event word of spec/30_encoding.md R70. Every register value is unsigned and its arithmetic wraps at its width (R6). -/

namespace Sys2Proof

/-- An event word, `e[4:0]` (R70). -/
abbrev EventWord := BitVec 5

/-- `shiftBuffer` (R22). -/
abbrev ShiftWord := BitVec Config.sbW

/-- `bitCount` (R23). -/
abbrev BitCount := BitVec Config.bcW

/-- `controlRegister` (R24). -/
abbrev CtrlWord := BitVec Config.ctrlW

/-- `displayRegister` (R25). -/
abbrev DispWord := BitVec Config.dispW

/-- The 24 bits a clean display frame carries (R76). -/
abbrev DispPayload := BitVec Config.dispLen

/-- A diagnostic update counter (R26). -/
abbrev UpdateCount := BitVec Config.cntW

/-- A 4-bit nibble, the operand of the glyph decoder (R130). -/
abbrev Nibble := BitVec 4

/-- The 8-bit progress and centrifuge codes (R182, R184). -/
abbrev Code := BitVec 8

end Sys2Proof
end

