-- ==== Sys2Proof/Syntax.lean ====
section
/-! DEFINITION. The block's "instructions": one constructor per row of spec/opcode_table.json. The first fourteen are
the event-word rows (spec/30_encoding.md R70 to R74: each of the 32 words is exactly one of them); the last three are
the frame rows (R75 to R77), whole transactions of one channel. -/

namespace Sys2Proof

/-- One operation. Register numbers do not exist here; an operand is a channel, a line level, a data bit or a register
value. A frame's data bits are listed in arrival order, first bit clocked first. -/
inductive Instr where
  /-- `SCK_RISE`: a rising edge of the shared clock, with the level of DATA the handler read (R106). -/
  | sckRise (v : Level)
  /-- `CS_ASSERT`: an edge of the channel's select line that was read asserted (R101). -/
  | csAssert (c : Channel)
  /-- `CS_DEASSERT`: an edge of the channel's select line that was read deasserted (R102). -/
  | csDeassert (c : Channel)
  /-- `READ_CTRL`: the poll agent reads the channel's control register (R108). -/
  | readCtrl (c : Channel)
  /-- `READ_DISP`: the poll agent reads the channel's display register (R109). -/
  | readDisp (c : Channel)
  /-- `PUBLISH_TIME` (R202). -/
  | publishTime
  /-- `PUBLISH_STATUS` (R203). -/
  | publishStatus
  /-- `RESERVED_SCK_C1`: words 0x02 and 0x03 (R74). -/
  | reservedSckC1 (v : Level)
  /-- `RESERVED_READ_V1`: words 0x09, 0x0B (`k0` false) and 0x0D, 0x0F (`k0` true) (R74). -/
  | reservedReadV1 (k0 : Bool) (c : Channel)
  /-- `RESERVED_PUBLISH_TIME_V1`: word 0x11 (R74). -/
  | reservedPublishTimeV1
  /-- `RESERVED_PUBLISH_TIME_C1`: words 0x12 and 0x13 (R74). -/
  | reservedPublishTimeC1 (v : Level)
  /-- `RESERVED_PUBLISH_STATUS_V1`: word 0x15 (R74). -/
  | reservedPublishStatusV1
  /-- `RESERVED_PUBLISH_STATUS_C1`: words 0x16 and 0x17 (R74). -/
  | reservedPublishStatusC1 (v : Level)
  /-- `RESERVED_K11X`: words 0x18 to 0x1F (R74). -/
  | reservedK11x (k0 : Bool) (c : Channel) (v : Level)
  /-- `FRAME_CONTROL`: a whole frame of channel `c` whose length is 8 modulo 256. `value` holds the last eight bits
  clocked, the first of them in bit 7; `lead` holds the bits clocked before them, none in a clean frame and 256·k in
  one whose count wrapped (R75, R78). -/
  | frameControl (c : Channel) (lead : List Bool) (value : CtrlWord)
  /-- `FRAME_DISPLAY`: a whole frame of channel `c` whose length is 24 modulo 256. `value` holds the last 24 bits
  clocked, the first of them in bit 23; `lead` the bits before them, as for `frameControl` (R76, R78). -/
  | frameDisplay (c : Channel) (lead : List Bool) (value : DispPayload)
  /-- `FRAME_DISCARD`: a whole frame of channel `c` of any other length (R77). -/
  | frameDiscard (c : Channel) (bits : List Bool)
deriving DecidableEq, Repr

end Sys2Proof
end

