-- ==== Sys2Proof/WellFormed.lean ====
section
/-! DEFINITION. Which instructions are well formed. An event-word row's operands admit every value, so its
constructors carry no check; a frame row's data bits must make the length that its row names (spec/30_encoding.md R75
to R78). -/

namespace Sys2Proof

/-- The bits clocked before a committing frame's last 8 or 24 must be a whole number of wraps of `bitCount` (R78). -/
def leadWraps (lead : List Bool) : Bool :=
  lead.length % 2 ^ Config.bcW == 0

/-- A frame of this many clocks commits the control register: the count is 8 modulo 2^8 (R75, R78). -/
def isControlLength (n : Nat) : Bool :=
  n % 2 ^ Config.bcW == Config.ctrlLen

/-- A frame of this many clocks commits the display register: the count is 24 modulo 2^8 (R76, R78). -/
def isDisplayLength (n : Nat) : Bool :=
  n % 2 ^ Config.bcW == Config.dispLen

/-- A frame of this many clocks is discarded (R77). -/
def isDiscardLength (n : Nat) : Bool :=
  !isControlLength n && !isDisplayLength n

/-- The well-formed instructions. -/
def Instr.wf : Instr → Bool
  | .sckRise _ => true
  | .csAssert _ => true
  | .csDeassert _ => true
  | .readCtrl _ => true
  | .readDisp _ => true
  | .publishTime => true
  | .publishStatus => true
  | .reservedSckC1 _ => true
  | .reservedReadV1 _ _ => true
  | .reservedPublishTimeV1 => true
  | .reservedPublishTimeC1 _ => true
  | .reservedPublishStatusV1 => true
  | .reservedPublishStatusC1 _ => true
  | .reservedK11x _ _ _ => true
  | .frameControl _ lead _ => leadWraps lead
  | .frameDisplay _ lead _ => leadWraps lead
  | .frameDiscard _ bits => isDiscardLength bits.length

/-- An instruction is well formed. -/
abbrev Instr.WellFormed (i : Instr) : Prop := i.wf = true

end Sys2Proof
end

