-- ==== Sys2Proof/Decode.lean ====
section
/-! DEFINITION. The decoder and the encoder. Two levels, as spec/30_encoding.md has them: the event word (R70 to R74),
total on all 32 words; and the frame (R75 to R78), a sequence of event words of one channel from an asserting select
edge to the next deasserting one, rejected by name where the sequence is no frame. -/

namespace Sys2Proof

/-! ### Data bits and levels -/

/-- The data bit a level of DATA is read as (R107; `DATA_ONE` of R5). -/
def dataBit (v : Level) : Bool :=
  decide (v = Config.dataOne)

/-- The level of DATA that is read as the bit. -/
def dataLevel (b : Bool) : Level :=
  if b then Config.dataOne else Config.dataOne.flip

/-- The low `n` bits of a value, most significant first: the order in which a frame clocks them (R58, R82). -/
def msbFirst {w : Nat} (v : BitVec w) : Nat → List Bool
  | 0 => []
  | n + 1 => v.getLsbD n :: msbFirst v n

/-- Shift bits into a value, first bit first: each moves the value up by one and enters at bit 0 (R58, R79). -/
def shiftInBits {w : Nat} (v : BitVec w) (bits : List Bool) : BitVec w :=
  bits.foldl (fun acc b => (acc <<< 1) ||| (BitVec.ofBool b).setWidth w) v

/-- The bits read as an unsigned number of `w` bits, most significant first (R79). -/
def ofMsbFirst (w : Nat) (bits : List Bool) : BitVec w :=
  shiftInBits 0 bits

/-! ### The event word -/

/-- The `C` field of a channel: 0 is L, 1 is R (R72). -/
def channelBit : Channel → BitVec 1
  | .L => 0
  | .R => 1

/-- The `V` field of a level: 1 is high (R73). -/
def levelBit : Level → BitVec 1
  | .low => 0
  | .high => 1

/-- An event word from its fields `K[4:2] C[1] V[0]` (R70). -/
def eventWord (k : BitVec 3) (c : Channel) (v : Level) : EventWord :=
  k ++ channelBit c ++ levelBit v

/-- The kind field `K` (R70). -/
def kindField (w : EventWord) : BitVec 3 :=
  w.extractLsb' 2 3

/-- The channel field `C` (R70, R72). -/
def channelField (w : EventWord) : Channel :=
  if w.getLsbD 1 then .R else .L

/-- The level field `V` (R70, R73). -/
def levelField (w : EventWord) : Level :=
  if w.getLsbD 0 then .high else .low

/-- The operation of a select edge read at level `v` (R71, R100). -/
def selectEdge (c : Channel) (v : Level) : Instr :=
  if v = Config.csActive then .csAssert c else .csDeassert c

/-- The operation of an event word: total on all 32 words, the reserved ones being operations of their own that the
machine refuses (R71, R74). -/
def decodeWord (w : EventWord) : Instr :=
  match (kindField w).toNat, channelField w, levelField w with
  | 0, .L, v => .sckRise v
  | 0, .R, v => .reservedSckC1 v
  | 1, c, v => selectEdge c v
  | 2, c, .low => .readCtrl c
  | 2, c, .high => .reservedReadV1 false c
  | 3, c, .low => .readDisp c
  | 3, c, .high => .reservedReadV1 true c
  | 4, .L, .low => .publishTime
  | 4, .L, .high => .reservedPublishTimeV1
  | 4, .R, v => .reservedPublishTimeC1 v
  | 5, .L, .low => .publishStatus
  | 5, .L, .high => .reservedPublishStatusV1
  | 5, .R, v => .reservedPublishStatusC1 v
  | _, c, v => .reservedK11x (w.getLsbD 2) c v

/-! ### Frames -/

/-- The frame of channel `c` with these data bits, sorted by its length (R75 to R78). The last 8 or 24 bits of a
committing frame are its value. -/
def classifyFrame (c : Channel) (bits : List Bool) : Instr :=
  if isControlLength bits.length then
    let k := bits.length - Config.ctrlLen
    .frameControl c (bits.take k) (ofMsbFirst Config.ctrlW (bits.drop k))
  else if isDisplayLength bits.length then
    let k := bits.length - Config.dispLen
    .frameDisplay c (bits.take k) (ofMsbFirst Config.dispLen (bits.drop k))
  else
    .frameDiscard c bits

/-- Why a sequence of event words is no instruction. -/
inductive DecodeError where
  /-- There is no word. -/
  | empty
  /-- The first of several words is not an asserting select edge, so they are no frame (R13). -/
  | notAFrameStart (w : EventWord)
  /-- Inside the frame stands a word that is neither a clock event nor this channel's deasserting edge. -/
  | foreignEvent (w : EventWord)
  /-- The words end before the channel's deasserting edge. -/
  | unfinishedFrame
  /-- Words follow the frame's deasserting edge. -/
  | trailingWords (rest : List EventWord)
deriving DecidableEq, Repr

/-- Read the words after the asserting edge of channel `c`; `acc` holds the bits read so far, last first. -/
def decodeFrameBody (c : Channel) (acc : List Bool) : List EventWord → Except DecodeError Instr
  | [] => .error .unfinishedFrame
  | w :: rest =>
    match decodeWord w with
    | .sckRise v => decodeFrameBody c (dataBit v :: acc) rest
    | .csDeassert c' =>
      if c' = c then
        match rest with
        | [] => .ok (classifyFrame c acc.reverse)
        | _ :: _ => .error (.trailingWords rest)
      else .error (.foreignEvent w)
    | _ => .error (.foreignEvent w)

/-- The instruction a sequence of event words spells: one word is an event, several are a frame. -/
def decode : List EventWord → Except DecodeError Instr
  | [] => .error .empty
  | [w] => .ok (decodeWord w)
  | w :: w' :: rest =>
    match decodeWord w with
    | .csAssert c => decodeFrameBody c [] (w' :: rest)
    | _ => .error (.notAFrameStart w)

/-! ### The encoder -/

/-- The word of a clock event that carries a data bit (R71, R73). -/
def clockWord (b : Bool) : EventWord :=
  eventWord 0 .L (dataLevel b)

/-- The word of an asserting select edge (R71). -/
def assertWord (c : Channel) : EventWord :=
  eventWord 1 c Config.csActive

/-- The word of a deasserting select edge (R71). -/
def deassertWord (c : Channel) : EventWord :=
  eventWord 1 c Config.csActive.flip

/-- The words of a frame: the asserting edge, one clock event per data bit, the deasserting edge (R75, R82). -/
def frameWords (c : Channel) (bits : List Bool) : List EventWord :=
  assertWord c :: (bits.map clockWord ++ [deassertWord c])

/-- The data bits of a control frame, in arrival order (R75, R78). -/
def controlFrameBits (lead : List Bool) (value : CtrlWord) : List Bool :=
  lead ++ msbFirst value Config.ctrlLen

/-- The data bits of a display frame, in arrival order (R76, R78). -/
def displayFrameBits (lead : List Bool) (value : DispPayload) : List Bool :=
  lead ++ msbFirst value Config.dispLen

/-- The kind-110 or kind-111 word with this low kind bit (R71). -/
def reservedKind (k0 : Bool) : BitVec 3 :=
  if k0 then 7 else 6

/-- The event words of an instruction. -/
def encode : Instr → List EventWord
  | .sckRise v => [eventWord 0 .L v]
  | .csAssert c => [assertWord c]
  | .csDeassert c => [deassertWord c]
  | .readCtrl c => [eventWord 2 c .low]
  | .readDisp c => [eventWord 3 c .low]
  | .publishTime => [eventWord 4 .L .low]
  | .publishStatus => [eventWord 5 .L .low]
  | .reservedSckC1 v => [eventWord 0 .R v]
  | .reservedReadV1 k0 c => [eventWord (if k0 then 3 else 2) c .high]
  | .reservedPublishTimeV1 => [eventWord 4 .L .high]
  | .reservedPublishTimeC1 v => [eventWord 4 .R v]
  | .reservedPublishStatusV1 => [eventWord 5 .L .high]
  | .reservedPublishStatusC1 v => [eventWord 5 .R v]
  | .reservedK11x k0 c v => [eventWord (reservedKind k0) c v]
  | .frameControl c lead value => frameWords c (controlFrameBits lead value)
  | .frameDisplay c lead value => frameWords c (displayFrameBits lead value)
  | .frameDiscard c bits => frameWords c bits

/-! ### The opcode table's own numbering -/

/-- The instruction of a row of spec/opcode_table.json whose `nbits` bits are `w`. The event rows are five bits, held in
one byte; the frame rows list a frame's data bits, first bit clocked most significant, and name no channel (the select
line does), so the left one stands for it. A byte below 32 is an event word; every other length, and a byte that is no
event word, is a frame's data. DESIGN CHOICE, assumption log 2. -/
def decodeTableWord (nbits w : Nat) : Option Instr :=
  if (nbits = 5 ∨ nbits = 8) ∧ w < 2 ^ 5 then some (decodeWord (BitVec.ofNat 5 w))
  else if w < 2 ^ nbits then some (classifyFrame .L (msbFirst (BitVec.ofNat nbits w) nbits))
  else none

end Sys2Proof
end

