-- ==== Sys2Proof/Machine/Contexts.lean ====
section
/-! DEFINITION. The two execution contexts (spec/60_exceptions.md R219): fixed per operation, with no privilege and no
switch between them. -/

namespace Sys2Proof.Machine

/-- An execution context (R219). -/
inductive Context where
  /-- The edge-interrupt handlers. -/
  | interrupt
  /-- The poll agent's operations. -/
  | polling
deriving DecidableEq, Repr

/-- The context an operation runs in; a reserved word runs in none (R71, R219). A frame is a sequence of edge events. -/
def contextOf : Instr → Option Context
  | .sckRise _ => some .interrupt
  | .csAssert _ => some .interrupt
  | .csDeassert _ => some .interrupt
  | .readCtrl _ => some .polling
  | .readDisp _ => some .polling
  | .publishTime => some .polling
  | .publishStatus => some .polling
  | .reservedSckC1 _ => none
  | .reservedReadV1 _ _ => none
  | .reservedPublishTimeV1 => none
  | .reservedPublishTimeC1 _ => none
  | .reservedPublishStatusV1 => none
  | .reservedPublishStatusC1 _ => none
  | .reservedK11x _ _ _ => none
  | .frameControl _ _ _ => some .interrupt
  | .frameDisplay _ _ _ => some .interrupt
  | .frameDiscard _ _ => some .interrupt

/-- An event word that a bus edge delivers (R10, R71). -/
def isEdge (w : EventWord) : Bool :=
  contextOf (decodeWord w) == some .interrupt

end Sys2Proof.Machine
end

