-- ==== Sys2Proof/Machine/State.lean ====
section
/-! DEFINITION. The state of the block (spec/10_state.md), as plain data; why a step can stop; and the state after
reset (spec/70_reset_and_hazards.md R230). The block has no memory, no program counter and no general registers (R30,
R50). -/

namespace Sys2Proof.Machine

/-- One channel decoder (R20 to R26). -/
structure ChannelDecoder where
  /-- `sel`: the select line was last sampled asserted (R21). -/
  sel : Bool
  /-- `sb`, the shift buffer (R22). -/
  sb : ShiftWord
  /-- `bc`, the bit count (R23). -/
  bc : BitCount
  /-- `ctrl`, the control register (R24). -/
  ctrl : CtrlWord
  /-- `disp`, the display register (R25). -/
  disp : DispWord
  /-- `nCtrl`, the control update counter (R26). -/
  nCtrl : UpdateCount
  /-- `nDisp`, the display update counter (R26). -/
  nDisp : UpdateCount
deriving DecidableEq, Repr

/-- The poll agent's latches for one channel (R32). -/
structure Snapshot where
  /-- `snap.ctrl[c]`. -/
  ctrl : CtrlWord
  /-- `snap.disp[c]`. -/
  disp : DispWord
  /-- `snap.ld_ctrl[c]`: the control latch has been read. -/
  ldCtrl : Bool
  /-- `snap.ld_disp[c]`: the display latch has been read. -/
  ldDisp : Bool
deriving DecidableEq, Repr

/-- One output sink (R33, R201, R204). -/
structure Sink where
  /-- The last string published; `none` before the first (R33). -/
  last : Option String
  /-- The sink's output sequence, oldest first (R201). -/
  out : List String
deriving DecidableEq, Repr

/-- The two sinks (R33). -/
inductive SinkName where
  | time
  | status
deriving DecidableEq, Repr

/-- One instance for each channel (R20). -/
structure PerChannel (α : Type) where
  L : α
  R : α
deriving DecidableEq, Repr

/-- The instance of channel `c`. -/
def PerChannel.get {α : Type} (p : PerChannel α) : Channel → α
  | .L => p.L
  | .R => p.R

/-- Replace the instance of channel `c`. -/
def PerChannel.set {α : Type} (p : PerChannel α) : Channel → α → PerChannel α
  | .L, x => { p with L := x }
  | .R, x => { p with R := x }

/-- The machine. The last two fields are the model's own: the words the environment has delivered and the block has not
yet handled, which stand for the environment's choice of events (R10, R53), and how many words have been taken from
there, which only `LOSSY_EDGES` reads. -/
structure State where
  /-- The channel decoders. -/
  ch : PerChannel ChannelDecoder
  /-- The poll agent's latches. -/
  snap : PerChannel Snapshot
  /-- The sink `TIME`. -/
  time : Sink
  /-- The sink `STATUS`. -/
  status : Sink
  /-- MODEL'S OWN: the event words to come, in the one total order of R53. Assumption log 1. -/
  input : List EventWord
  /-- MODEL'S OWN: how many words have been taken from `input`. Assumption log 4. -/
  delivered : Nat
deriving DecidableEq, Repr

/-- Faults: there are none, and the type has no value ("No operation here can block or fail fatally", R11, R210). -/
inductive Fault where
deriving DecidableEq, Repr

/-- Why an event is refused (R11, R212). A refusal changes no state. -/
inductive Refusal where
  /-- `exec`, for an instruction that has no meaning yet. Safe: the run stops. No arm raises it. -/
  | notModelled (mnemonic : String)
  /-- The reserved event words, always (R74). Safe: they spell no operation. -/
  | reservedEvent
  /-- PUBLISH_TIME and PUBLISH_STATUS, where a latch they need has not been read since reset (R200). Safe: it shuts out
  only traces the poll step cannot produce. -/
  | snapshotNotLoaded
deriving DecidableEq, Repr

/-- What a step answers. -/
abbrev Result := Host.Outcome State Fault Refusal

/-! ### Reset -/

/-- A channel decoder after reset: "zero-initialized" (R230). -/
def ChannelDecoder.reset : ChannelDecoder :=
  { sel := false, sb := 0, bc := 0, ctrl := 0, disp := 0, nCtrl := 0, nDisp := 0 }

/-- A snapshot after reset: zero and not loaded (R32, R230). -/
def Snapshot.reset : Snapshot :=
  { ctrl := 0, disp := 0, ldCtrl := false, ldDisp := false }

/-- A sink after reset: nothing published (R33, R230). -/
def Sink.reset : Sink :=
  { last := none, out := [] }

/-- The machine right after reset (R230). No event is delivered yet (R231). -/
def State.reset : State :=
  { ch := { L := .reset, R := .reset }
    snap := { L := .reset, R := .reset }
    time := .reset
    status := .reset
    input := []
    delivered := 0 }

/-! ### Accessors -/

/-- Replace the decoder of channel `c`. -/
def State.setCh (s : State) (c : Channel) (x : ChannelDecoder) : State :=
  { s with ch := s.ch.set c x }

/-- Replace the latches of channel `c`. -/
def State.setSnap (s : State) (c : Channel) (x : Snapshot) : State :=
  { s with snap := s.snap.set c x }

/-- The sink of that name. -/
def State.sink (s : State) : SinkName → Sink
  | .time => s.time
  | .status => s.status

/-- Replace the sink of that name. -/
def State.setSink (s : State) : SinkName → Sink → State
  | .time, x => { s with time := x }
  | .status, x => { s with status := x }

end Sys2Proof.Machine
end

