-- ==== Sys2Proof/Machine/Operands.lean ====
section
/-! DEFINITION. Every field the block extracts from a register (spec/30_encoding.md R80). All extraction is
zero-extended and unsigned. -/

namespace Sys2Proof.Machine

/-- A data bit as a shift-buffer value: 0 or 1 (R106). -/
def bitWord (d : Bool) : ShiftWord :=
  (BitVec.ofBool d).setWidth Config.sbW

/-- The eight bits of the shift buffer that a control commit takes, `sb[7:0]` (R103). -/
def controlValue (sb : ShiftWord) : CtrlWord :=
  sb.setWidth Config.ctrlW

/-- The bits of the shift buffer that a display commit takes: all 32 (R104). -/
def displayValue (sb : ShiftWord) : DispWord :=
  sb.setWidth Config.dispW

/-- Glyph nibble `i`: `disp[4i+3:4i]` (R80, R132). -/
def glyphNibble (i : Fin 3) (disp : DispWord) : Nibble :=
  disp.extractLsb' (4 * i.val) 4

/-- The special-mode bit of glyph `i` under a reading of the mask test (R80, R131). -/
def special (t : ModeTest) (i : Fin 3) (ctrl : CtrlWord) : Bool :=
  match t with
  | .all => ctrl &&& Config.modeMask i == Config.modeMask i
  | .any => ctrl &&& Config.modeMask i != 0

/-- The progress code: `((Rd & 0xF000) >> 8) | (Rd & 0x7)` (R80, R182). -/
def progressCode (rd : DispWord) : Code :=
  (((rd &&& 0xF000) >>> 8) ||| (rd &&& 0x7)).setWidth 8

/-- The centrifuge code: `(Rd >> 16) & 0x7E` (R80, R184). -/
def spinCode (rd : DispWord) : Code :=
  ((rd >>> 16) &&& 0x7E).setWidth 8

end Sys2Proof.Machine
end

