-- ==== Sys2Proof/Machine/Flags.lean ====
section
/-! DEFINITION. The block's flags and tests. It has no condition codes (spec/10_state.md R35): its only flag is a
channel's `sel`, which Ops.lean writes; the rest are the loaded flags a publish needs (R200) and tests computed from a
register and never stored. -/

namespace Sys2Proof.Machine

/-- What a deassert does with a frame, by its length (R102). -/
inductive FrameKind where
  | control
  | display
  | discard
deriving DecidableEq, Repr

/-- The frame's kind by its length, which is the 8-bit `bc` (R59, R102). -/
def frameKind (n : BitCount) : FrameKind :=
  if n.toNat = Config.ctrlLen then .control
  else if n.toNat = Config.dispLen then .display
  else .discard

/-- `isDisplayOff`: the left control register's bit 0 is 0 (R161). -/
def isDisplayOff (lc : CtrlWord) : Bool :=
  lc.getLsbD 0 == false

/-- PUBLISH_TIME's precondition (R200). -/
def timeLoaded (s : State) : Bool :=
  s.snap.L.ldCtrl && s.snap.L.ldDisp

/-- PUBLISH_STATUS's precondition (R200). -/
def statusLoaded (s : State) : Bool :=
  s.snap.L.ldCtrl && s.snap.L.ldDisp && s.snap.R.ldDisp

/-- Option "Pre-wash": mask 0x100 (R185). -/
def optPrewash (rd : DispWord) : Bool :=
  rd &&& 0x000100 != 0

/-- Option "Short": mask 0x40 (R185). -/
def optShort (rd : DispWord) : Bool :=
  rd &&& 0x000040 != 0

/-- Option "Wasser Plus": mask 0x80 (R185). -/
def optWaterPlus (rd : DispWord) : Bool :=
  rd &&& 0x000080 != 0

/-- Option "Summer": mask 0x010000 (R185). -/
def optSummer (rd : DispWord) : Bool :=
  rd &&& 0x010000 != 0

end Sys2Proof.Machine
end

