-- ==== Sys2Proof/Machine/Ops.lean ====
section
/-! DEFINITION. The shared operations on the state: the channel decoder's edge handlers and commit controller
(spec/40_channel_decoder.md), the snapshot reads, and the deduplicating publication (spec/45_publication.md R201). The
block takes no exception and returns from none (R210, R217), so no such operation stands here. -/

namespace Sys2Proof.Machine

/-! ### One channel decoder -/

/-- CS_ASSERT on one decoder (R101). -/
def ChannelDecoder.assert (x : ChannelDecoder) : ChannelDecoder :=
  { x with sb := 0, bc := 0, sel := true }

/-- COMMIT_CONTROL (R103). -/
def ChannelDecoder.commitControl (x : ChannelDecoder) : ChannelDecoder :=
  { x with ctrl := controlValue x.sb, nCtrl := x.nCtrl + 1 }

/-- COMMIT_DISPLAY (R104). -/
def ChannelDecoder.commitDisplay (x : ChannelDecoder) : ChannelDecoder :=
  { x with disp := displayValue x.sb, nDisp := x.nDisp + 1 }

/-- DISCARD: no write (R105). -/
def ChannelDecoder.discard (x : ChannelDecoder) : ChannelDecoder :=
  x

/-- The commit controller: what the frame length selects (R102). -/
def ChannelDecoder.settle (x : ChannelDecoder) : ChannelDecoder :=
  match frameKind x.bc with
  | .control => x.commitControl
  | .display => x.commitDisplay
  | .discard => x.discard

/-- CS_DEASSERT on one decoder; `sb` and `bc` are not cleared (R102). -/
def ChannelDecoder.deassert (x : ChannelDecoder) : ChannelDecoder :=
  ChannelDecoder.settle { x with sel := false }

/-- The clock handler of one decoder: no-op if not selected (R106). -/
def ChannelDecoder.clock (d : Bool) (x : ChannelDecoder) : ChannelDecoder :=
  if x.sel then { x with sb := (x.sb <<< 1) ||| bitWord d, bc := x.bc + 1 } else x

/-! ### Edge events on the machine -/

/-- CS_ASSERT (R101). -/
def State.csAssert (c : Channel) (s : State) : State :=
  s.setCh c (s.ch.get c).assert

/-- CS_DEASSERT (R102). -/
def State.csDeassert (c : Channel) (s : State) : State :=
  s.setCh c (s.ch.get c).deassert

/-- The clock step of one channel (R151). -/
def State.clockChannel (d : Bool) (c : Channel) (s : State) : State :=
  s.setCh c ((s.ch.get c).clock d)

/-- SCK_RISE: the left decoder's clock step and then the right one's, one atomic step (R106, R151). -/
def State.sckRise (d : Bool) (s : State) : State :=
  (s.clockChannel d .L).clockChannel d .R

/-- CS_EDGE, the dispatch by the level read (R100). -/
def State.csEdge (c : Channel) (v : Level) (s : State) : State :=
  if v = Config.csActive then s.csAssert c else s.csDeassert c

/-- Clock events in a row, one per data bit, first bit first (R79). -/
def State.clocks (bits : List Bool) (s : State) : State :=
  bits.foldl (fun t d => t.sckRise d) s

/-- A whole frame of channel `c` with no other event inside it (R75 to R77). -/
def State.frame (c : Channel) (bits : List Bool) (s : State) : State :=
  ((s.csAssert c).clocks bits).csDeassert c

/-! ### Snapshot reads -/

/-- READ_CTRL: an atomic 8-bit read into the latch (R108). -/
def State.readCtrl (c : Channel) (s : State) : State :=
  s.setSnap c { s.snap.get c with ctrl := (s.ch.get c).ctrl, ldCtrl := true }

/-- READ_DISP: an atomic 32-bit read into the latch (R109). -/
def State.readDisp (c : Channel) (s : State) : State :=
  s.setSnap c { s.snap.get c with disp := (s.ch.get c).disp, ldDisp := true }

/-! ### Publication -/

/-- `emit`: append to the sink's output sequence and remember the string (R201). -/
def Sink.emit (k : Sink) (x : String) : Sink :=
  { last := some x, out := k.out ++ [x] }

/-- `publish`: emit unless the string is the one last published (R201). -/
def Sink.publish (k : Sink) (x : String) : Sink :=
  if k.last = some x then k else k.emit x

/-- Publish a string to a sink of the machine (R201). -/
def State.publish (n : SinkName) (x : String) (s : State) : State :=
  s.setSink n ((s.sink n).publish x)

/-- The bytes of a string handed to a sink: UTF-8 (R204). -/
def sinkBytes (x : String) : List (BitVec 8) :=
  x.toUTF8.data.toList.map UInt8.toBitVec

end Sys2Proof.Machine
end

