-- ==== Sys2Proof/Machine/Frames.lean ====
section
/-! DEFINITION. The meanings of the frame rows (spec/30_encoding.md R75 to R78): what a whole transaction does when no
other event comes between its events. Which register it writes is decided at its deasserting edge, by the count, not by
the row's name. Assumption log 5. -/

namespace Sys2Proof.Machine

/-- FRAME_CONTROL (R75, R103). -/
def execFrameControl (c : Channel) (lead : List Bool) (value : CtrlWord) (s : State) : Result :=
  .next (s.frame c (controlFrameBits lead value))

/-- FRAME_DISPLAY (R76, R104). -/
def execFrameDisplay (c : Channel) (lead : List Bool) (value : DispPayload) (s : State) : Result :=
  .next (s.frame c (displayFrameBits lead value))

/-- FRAME_DISCARD (R77, R105). -/
def execFrameDiscard (c : Channel) (bits : List Bool) (s : State) : Result :=
  .next (s.frame c bits)

end Sys2Proof.Machine
end

