-- ==== Sys2Proof/Machine/Glyph.lean ====
section
/-! DEFINITION. The glyph decoder (spec/41_glyph_decode.md): a nibble and a mode bit give one display character. -/

namespace Sys2Proof.Machine

/-- Normal mode: an ASCII digit, or an ASCII upper-case letter A to F (R130). -/
def normalGlyph (n : Nibble) : Char :=
  match n.toNat with
  | 0 => '0'
  | 1 => '1'
  | 2 => '2'
  | 3 => '3'
  | 4 => '4'
  | 5 => '5'
  | 6 => '6'
  | 7 => '7'
  | 8 => '8'
  | 9 => '9'
  | 10 => 'A'
  | 11 => 'B'
  | 12 => 'C'
  | 13 => 'D'
  | 14 => 'E'
  | _ => 'F'

/-- `SPECIAL`, the fixed lookup table of special mode (R130). -/
def specialGlyph (n : Nibble) : Char :=
  match n.toNat with
  | 0 => ' '
  | 1 => 'c'
  | 2 => 'H'
  | 3 => 'h'
  | 4 => 'J'
  | 5 => 'L'
  | 6 => 'n'
  | 7 => 'o'
  | 8 => 'P'
  | 9 => 'r'
  | 10 => 'U'
  | 11 => 'u'
  | 12 => 'y'
  | 13 => '-'
  | 14 => '='
  | _ => 'o'

/-- `decodeGlyph` (R130). -/
def decodeGlyph (n : Nibble) (isSpecial : Bool) : Char :=
  if isSpecial then specialGlyph n else normalGlyph n

/-- Glyph `i` of a register pair: 0 the low-order, 1 the middle, 2 the high-order one (R132). -/
def glyph (t : ModeTest) (i : Fin 3) (ctrl : CtrlWord) (disp : DispWord) : Char :=
  decodeGlyph (glyphNibble i disp) (special t i ctrl)

/-- The three glyphs, high order first: `(g2, g1, g0)` (R132, R160). -/
def glyphs (t : ModeTest) (ctrl : CtrlWord) (disp : DispWord) : Char × Char × Char :=
  (glyph t 2 ctrl disp, glyph t 1 ctrl disp, glyph t 0 ctrl disp)

end Sys2Proof.Machine
end

