-- ==== Sys2Proof/Machine/Interpreter.lean ====
section
/-! DEFINITION. The state classifier and the time formatter (spec/43_state_interpreter.md): pure functions of the poll
agent's left snapshot `lc`, `ld`. The mask-test reading `t` is an argument (R131); the machine passes
`Config.modeTest`. -/

namespace Sys2Proof.Machine

/-- The classification of the left registers; derived, never stored (R35, R162). -/
inductive DisplayState where
  | normal
  | doorOpen
  | fault
deriving DecidableEq, Repr

/-- `decodeState` (R162). -/
def decodeState (t : ModeTest) (lc : CtrlWord) (ld : DispWord) : DisplayState :=
  if isDisplayOff lc then .doorOpen
  else if glyph t 0 lc ld = '-' then .fault
  else .normal

/-- The minutes: the middle and low glyphs, a leading blank suppressed (R163 step 4). -/
def minutesText (g1 g0 : Char) : String :=
  (if g1 = ' ' then "" else String.singleton g1) ++ String.singleton g0

/-- The time of three glyphs with the display on (R163 steps 2 to 6). -/
def timeOfGlyphs (g2 g1 g0 : Char) : String :=
  if g0 = '-' then "---"
  else if g0 = ' ' then " "
  else if g2 ≠ ' ' then String.singleton g2 ++ "h " ++ minutesText g1 g0 ++ "m"
  else minutesText g1 g0 ++ " min"

/-- `formatTime` (R163). -/
def formatTime (t : ModeTest) (lc : CtrlWord) (ld : DispWord) : String :=
  if isDisplayOff lc then " "
  else timeOfGlyphs (glyph t 2 lc ld) (glyph t 1 lc ld) (glyph t 0 lc ld)

end Sys2Proof.Machine
end

