-- ==== Sys2Proof/Machine/Status.lean ====
section
/-! DEFINITION. The status formatter (spec/44_status_formatter.md): a list of labels from the left snapshot `lc`, `ld`
and the right display snapshot `rd`. The disabled "delayed-start" and "soak" heuristics are no part of it (R187). -/

namespace Sys2Proof.Machine

/-- "Finished" or "Idle" for progress code 0x04 (R183). -/
def finishedOrIdle (g2 g1 g0 : Char) : String :=
  if g2 = ' ' ∧ g1 = ' ' ∧ g0 = '0' then "Finished" else "Idle"

/-- The progress label: exact match of the whole code, no label where nothing matches (R182). -/
def progressLabel (rd : DispWord) (g2 g1 g0 : Char) : List String :=
  match (progressCode rd).toNat with
  | 0x10 => ["Pre-washing"]
  | 0x20 => ["Washing"]
  | 0x40 => ["Rinsing"]
  | 0x80 => ["Paused Rinse"]
  | 0x01 => ["Pumping"]
  | 0x02 => ["Spinning"]
  | 0x04 => [finishedOrIdle g2 g1 g0]
  | 0x00 => ["Ready"]
  | _ => []

/-- The centrifuge label: exact match of the whole code (R184). -/
def spinLabel (rd : DispWord) : List String :=
  match (spinCode rd).toNat with
  | 0x02 => ["Ø 1600"]
  | 0x04 => ["Ø 1400"]
  | 0x08 => ["Ø 1200"]
  | 0x50 => ["Ø 900"]
  | 0x40 => ["Ø 600"]
  | 0x30 => ["Ø 400"]
  | 0x20 => ["Ø Rinse-pause"]
  | 0x10 => ["Ø No"]
  | _ => []

/-- The option labels, in the listed order (R185). -/
def optionLabels (rd : DispWord) : List String :=
  (if optPrewash rd then ["Pre-wash"] else [])
    ++ (if optShort rd then ["Short"] else [])
    ++ (if optWaterPlus rd then ["Wasser Plus"] else [])
    ++ (if optSummer rd then ["Summer"] else [])

/-- The labels the classification selects: the override, or the progress and centrifuge labels (R180, R181). -/
def phaseLabels (t : ModeTest) (lc : CtrlWord) (ld rd : DispWord) : List String :=
  match decodeState t lc ld with
  | .doorOpen => ["Door open"]
  | .fault => ["Fault"]
  | .normal => progressLabel rd (glyph t 2 lc ld) (glyph t 1 lc ld) (glyph t 0 lc ld) ++ spinLabel rd

/-- The labels of `formatState`, in order (R180, R186). -/
def statusLabels (t : ModeTest) (lc : CtrlWord) (ld rd : DispWord) : List String :=
  phaseLabels t lc ld rd ++ optionLabels rd

/-- `join(list, sep)`: the strings with `sep` between neighbours; the empty string for no string (R8). -/
def joinLabels (sep : String) : List String → String
  | [] => ""
  | [x] => x
  | x :: y :: rest => x ++ sep ++ joinLabels sep (y :: rest)

/-- `formatState` (R180, R186). -/
def formatState (t : ModeTest) (lc : CtrlWord) (ld rd : DispWord) : String :=
  joinLabels ", " (statusLabels t lc ld rd)

end Sys2Proof.Machine
end

