-- ==== Sys2Proof/Machine/Publication.lean ====
section
/-! DEFINITION. The meanings of the publish operations (spec/45_publication.md R200 to R203). -/

namespace Sys2Proof.Machine

/-- The string PUBLISH_TIME computes from the snapshot (R202). -/
def State.timeText (s : State) : String :=
  formatTime Config.modeTest s.snap.L.ctrl s.snap.L.disp

/-- The string PUBLISH_STATUS computes from the snapshot (R203). -/
def State.statusText (s : State) : String :=
  formatState Config.modeTest s.snap.L.ctrl s.snap.L.disp s.snap.R.disp

/-- PUBLISH_TIME (R202), refused where a latch it needs is not loaded (R200). -/
def execPublishTime (s : State) : Result :=
  if timeLoaded s then .next (s.publish .time s.timeText) else .refused .snapshotNotLoaded

/-- PUBLISH_STATUS (R203), refused where a latch it needs is not loaded (R200). -/
def execPublishStatus (s : State) : Result :=
  if statusLoaded s then .next (s.publish .status s.statusText) else .refused .snapshotNotLoaded

end Sys2Proof.Machine
end

