-- ==== Sys2Proof/Machine/Reads.lean ====
section
/-! DEFINITION. The meanings of the poll agent's snapshot reads (spec/40_channel_decoder.md R108, R109). -/

namespace Sys2Proof.Machine

/-- READ_CTRL (R108). -/
def execReadCtrl (c : Channel) (s : State) : Result :=
  .next (s.readCtrl c)

/-- READ_DISP (R109). -/
def execReadDisp (c : Channel) (s : State) : Result :=
  .next (s.readDisp c)

end Sys2Proof.Machine
end

