-- ==== Sys2Proof/Machine/Reserved.lean ====
section
/-! DEFINITION. The meanings of the reserved event words: `refuse(reserved_event)`, with no state change
(spec/30_encoding.md R74). The spec gives them no operation. -/

namespace Sys2Proof.Machine

/-- The refusal of a word that spells no operation (R74). -/
def refuseReserved (_ : State) : Result :=
  .refused .reservedEvent

/-- RESERVED_SCK_C1: words 0x02 and 0x03 (R74). -/
def execReservedSckC1 (_ : Level) (s : State) : Result :=
  refuseReserved s

/-- RESERVED_READ_V1: words 0x09, 0x0B, 0x0D and 0x0F (R74). -/
def execReservedReadV1 (_ : Bool) (_ : Channel) (s : State) : Result :=
  refuseReserved s

/-- RESERVED_PUBLISH_TIME_V1: word 0x11 (R74). -/
def execReservedPublishTimeV1 (s : State) : Result :=
  refuseReserved s

/-- RESERVED_PUBLISH_TIME_C1: words 0x12 and 0x13 (R74). -/
def execReservedPublishTimeC1 (_ : Level) (s : State) : Result :=
  refuseReserved s

/-- RESERVED_PUBLISH_STATUS_V1: word 0x15 (R74). -/
def execReservedPublishStatusV1 (s : State) : Result :=
  refuseReserved s

/-- RESERVED_PUBLISH_STATUS_C1: words 0x16 and 0x17 (R74). -/
def execReservedPublishStatusC1 (_ : Level) (s : State) : Result :=
  refuseReserved s

/-- RESERVED_K11X: words 0x18 to 0x1F (R74). -/
def execReservedK11x (_ : Bool) (_ : Channel) (_ : Level) (s : State) : Result :=
  refuseReserved s

end Sys2Proof.Machine
end

