-- ==== Sys2Proof/Machine/Sampler.lean ====
section
/-! DEFINITION. The meanings of the edge events (spec/40_channel_decoder.md R100 to R107). Each finishes in one step
and refuses nothing (R112). -/

namespace Sys2Proof.Machine

/-- SCK_RISE (R106): the level of DATA, read as a bit (R107), goes to both decoders. -/
def execSckRise (v : Level) (s : State) : Result :=
  .next (s.sckRise (dataBit v))

/-- CS_ASSERT (R101). -/
def execCsAssert (c : Channel) (s : State) : Result :=
  .next (s.csAssert c)

/-- CS_DEASSERT (R102). -/
def execCsDeassert (c : Channel) (s : State) : Result :=
  .next (s.csDeassert c)

end Sys2Proof.Machine
end

