-- ==== Sys2Proof/Machine/Dispatch.lean ====
section
/-! DEFINITION. One arm per constructor of Instr. -/

namespace Sys2Proof.Machine

/-- The meaning of one operation. -/
def exec (i : Instr) (s : State) : Host.Outcome State Fault Refusal :=
  match i with
  | .sckRise v => Sys2Proof.Machine.execSckRise v s
  | .csAssert c => Sys2Proof.Machine.execCsAssert c s
  | .csDeassert c => Sys2Proof.Machine.execCsDeassert c s
  | .readCtrl c => Sys2Proof.Machine.execReadCtrl c s
  | .readDisp c => Sys2Proof.Machine.execReadDisp c s
  | .publishTime => Sys2Proof.Machine.execPublishTime s
  | .publishStatus => Sys2Proof.Machine.execPublishStatus s
  | .reservedSckC1 v => Sys2Proof.Machine.execReservedSckC1 v s
  | .reservedReadV1 k0 c => Sys2Proof.Machine.execReservedReadV1 k0 c s
  | .reservedPublishTimeV1 => Sys2Proof.Machine.execReservedPublishTimeV1 s
  | .reservedPublishTimeC1 v => Sys2Proof.Machine.execReservedPublishTimeC1 v s
  | .reservedPublishStatusV1 => Sys2Proof.Machine.execReservedPublishStatusV1 s
  | .reservedPublishStatusC1 v => Sys2Proof.Machine.execReservedPublishStatusC1 v s
  | .reservedK11x k0 c v => Sys2Proof.Machine.execReservedK11x k0 c v s
  | .frameControl c lead value => Sys2Proof.Machine.execFrameControl c lead value s
  | .frameDisplay c lead value => Sys2Proof.Machine.execFrameDisplay c lead value s
  | .frameDiscard c bits => Sys2Proof.Machine.execFrameDiscard c bits s

end Sys2Proof.Machine
end

