-- ==== Sys2Proof/Machine/Events.lean ====
section
/-! DEFINITION. How events reach the block: taking the next delivered word, dropping a lost edge where `LOSSY_EDGES`
says the host may lose one (spec/60_exceptions.md R214), and running a trace of words event by event (R53, R212). -/

namespace Sys2Proof.Machine

/-- Take the word at the head of `input`; `rest` is what follows it. -/
def State.take (s : State) (rest : List EventWord) : State :=
  { s with input := rest, delivered := s.delivered + 1 }

/-- Put an instruction's words before the words to come. -/
def State.place (s : State) (i : Instr) : State :=
  { s with input := encode i ++ s.input }

/-- The host loses this delivery: only an edge, and only where `lossy` holds (R214). -/
def edgeLost (lossy : Bool) (n : Nat) (w : EventWord) : Bool :=
  lossy && isEdge w && Config.edgeDropped n

/-- One transition under a setting of `LOSSY_EDGES`: the next delivered word is handled whole (R9). With no word
delivered nothing happens (R9; DESIGN CHOICE, assumption log 3). -/
def handleNext (lossy : Bool) (s : State) : Result :=
  match s.input with
  | [] => .next s
  | w :: rest =>
    if edgeLost lossy s.delivered w then .next (s.take rest)
    else exec (decodeWord w) (s.take rest)

/-- Deliver one word to the block: the state after it, and the refusal where it was refused. A refused word changes no
state (R74, R212). -/
def feed (s : State) (w : EventWord) : State × Option Refusal :=
  match exec (decodeWord w) s with
  | .next t => (t, none)
  | .fault _ => (s, none)
  | .refused r => (s, some r)

/-- Run a trace: the state after it and the refusals in order (R53, R212, R244). -/
def runTrace (s : State) : List EventWord → State × List Refusal
  | [] => (s, [])
  | w :: rest =>
    let r := feed s w
    let q := runTrace r.1 rest
    (q.1, r.2.toList ++ q.2)

/-- The state after a trace. -/
def afterTrace (s : State) (ws : List EventWord) : State :=
  (runTrace s ws).1

end Sys2Proof.Machine
end

