-- ==== Sys2Proof/Machine/Step.lean ====
section
/-! DEFINITION. The step: one atomic transition per delivered event word (spec/00_scope.md R9, R10). The block fetches
no instruction (R61); its next operation is the next word the environment delivers. -/

namespace Sys2Proof.Machine

/-- One step: `handleNext` at the spec's `LOSSY_EDGES`. -/
def step (s : State) : Host.Outcome State Fault Refusal :=
  handleNext Config.lossyEdges s

/-- `s` with the opcode-table word delivered next. A frame row's words are delivered one after another; each step
handles one of them. Assumption log 1 and 2. -/
def State.withFetchWord (s : State) (nbits w : Nat) : State :=
  match decodeTableWord nbits w with
  | some i => s.place i
  | none => s

end Sys2Proof.Machine
end

