-- ==== Sys2Proof/Machine/Assembler.lean ====
section
/-! DEFINITION. The trace notation of spec/30_encoding.md R81 and R82: each line assembles to one event word; the
macros expand to lines. -/

namespace Sys2Proof.Machine

/-- One line of a trace (R81). -/
inductive TraceLine where
  /-- `SCK 0`, `SCK 1`. -/
  | sck (v : Level)
  /-- `CS c low`, `CS c high`. -/
  | cs (c : Channel) (v : Level)
  /-- `SEL c`, which is `CS c low`. -/
  | sel (c : Channel)
  /-- `DESEL c`, which is `CS c high`. -/
  | desel (c : Channel)
  /-- `RDC c`. -/
  | rdc (c : Channel)
  /-- `RDD c`. -/
  | rdd (c : Channel)
  /-- `PUBT`. -/
  | pubt
  /-- `PUBS`. -/
  | pubs
deriving DecidableEq, Repr

/-- The event word of a line (R81). -/
def assembleLine : TraceLine → EventWord
  | .sck v => eventWord 0 .L v
  | .cs c v => eventWord 1 c v
  | .sel c => eventWord 1 c .low
  | .desel c => eventWord 1 c .high
  | .rdc c => eventWord 2 c .low
  | .rdd c => eventWord 3 c .low
  | .pubt => eventWord 4 .L .low
  | .pubs => eventWord 5 .L .low

/-- The words of a trace. -/
def assemble (ls : List TraceLine) : List EventWord :=
  ls.map assembleLine

/-- `FRAME c, n, v`: bits of `v` above bit 31 are 0 (R82). -/
def traceFrame (c : Channel) (n : Nat) (v : BitVec 32) : List TraceLine :=
  .sel c :: ((msbFirst v n).map (fun b => .sck (dataLevel b)) ++ [.desel c])

/-- `CTRL c, v` (R82). -/
def traceCtrl (c : Channel) (v : BitVec 32) : List TraceLine :=
  traceFrame c Config.ctrlLen v

/-- `DISP c, v` (R82). -/
def traceDisp (c : Channel) (v : BitVec 32) : List TraceLine :=
  traceFrame c Config.dispLen v

/-- `CLOCKS b, n` (R82). -/
def traceClocks (b : Bool) (n : Nat) : List TraceLine :=
  List.replicate n (.sck (dataLevel b))

/-- `TICK`, the canonical poll tick (R82, R205). -/
def traceTick : List TraceLine :=
  [.rdc .L, .rdd .L, .pubt, .rdc .L, .rdd .L, .rdd .R, .pubs]

end Sys2Proof.Machine
end

