-- ==== Sys2Proof/Machine/BusMonitor.lean ====
section
/-! DEFINITION. The Bus Monitor's wiring (spec/42_bus_monitor.md): which event, if any, a transition of an input line
delivers. The lines are inputs and not state (spec/10_state.md R27), so this is a front end that turns line
transitions into event words; the machine takes it from there. -/

namespace Sys2Proof.Machine

/-- The levels of the input lines (R27). The block drives none of them. -/
structure Lines where
  sck : Level
  data : Level
  csL : Level
  csR : Level
deriving DecidableEq, Repr

/-- The level of a channel's select line. -/
def Lines.cs (l : Lines) : Channel → Level
  | .L => l.csL
  | .R => l.csR

/-- A transition of a line that the block has an interrupt on (R154, R213). DATA has none: it is only read. -/
inductive LineEdge where
  /-- The clock line changed. -/
  | sck (e : ClockEdge)
  /-- The channel's select line changed, in either direction. -/
  | cs (c : Channel)
deriving DecidableEq, Repr

/-- The event word of a transition, `l` being the levels the handler reads when it runs (R107, R152, R154). Only the
sampling clock edge is registered (R83, R151); a select handler acts on the level read, not on the direction (R100). -/
def eventOfEdge (l : Lines) : LineEdge → Option EventWord
  | .sck e => if e = Config.sckEdge then some (eventWord 0 .L l.data) else none
  | .cs c => some (eventWord 1 c (l.cs c))

/-- The words a run of transitions delivers, each with the levels its handler reads (R214: one event per edge, none
merged, none lost). -/
def eventsOfEdges (es : List (Lines × LineEdge)) : List EventWord :=
  es.filterMap fun e => eventOfEdge e.1 e.2

/-- The orders in which the events of coincident edges may be delivered: every one (R215). -/
def CoincidentOrder (events delivered : List EventWord) : Prop :=
  delivered.Perm events

end Sys2Proof.Machine
end

