-- ==== Sys2Proof/Safety.lean ====
section
/-! DEFINITION. What holds of every state a run can reach, in the terms the statements use. -/

namespace Sys2Proof.Machine

/-- `n` steps in a row, stopping at the first refusal. -/
def runSteps : Nat → State → Result
  | 0, s => .next s
  | n + 1, s =>
    match step s with
    | .next t => runSteps n t
    | .fault f => .fault f
    | .refused r => .refused r

/-- A sink's own consistency (R33, R201): `last` is the last string of the output sequence, and no string was emitted
twice in a row. -/
structure Sink.Consistent (k : Sink) : Prop where
  last_is_last : k.last = k.out.getLast?
  no_repeat : k.out.IsChain (· ≠ ·)

/-- A latch that has not been read still holds its reset value (R32). -/
structure Snapshot.Consistent (x : Snapshot) : Prop where
  ctrl_unread : x.ldCtrl = false → x.ctrl = 0
  disp_unread : x.ldDisp = false → x.disp = 0

/-- The invariant of the machine. -/
structure State.Inv (s : State) : Prop where
  /-- Both channels' latches are consistent. -/
  snap : ∀ c, (s.snap.get c).Consistent
  /-- Both sinks are consistent. -/
  sink : ∀ n, (s.sink n).Consistent
  /-- A time has been published only after the registers it is formatted from were read (R200). -/
  time_loaded : s.time.out ≠ [] → timeLoaded s = true
  /-- A status has been published only after the registers it is formatted from were read (R200). -/
  status_loaded : s.status.out ≠ [] → statusLoaded s = true
  /-- Every published time is the format of some register pair (R202). -/
  time_formatted : ∀ x ∈ s.time.out, ∃ lc ld, x = formatTime Config.modeTest lc ld
  /-- Every published status is the format of some register triple (R203). -/
  status_formatted : ∀ x ∈ s.status.out, ∃ lc ld rd, x = formatState Config.modeTest lc ld rd

/-- The states a run reaches from reset, the environment delivering whatever words it likes (R10, R53) and a refused
word being passed over without effect (R212). -/
inductive Reachable : State → Prop where
  | reset : Reachable State.reset
  | deliver {s : State} (w : EventWord) : Reachable s → Reachable { s with input := s.input ++ [w] }
  | step {s t : State} : Reachable s → Machine.step s = .next t → Reachable t
  | refused {s : State} {w : EventWord} {rest : List EventWord} {r : Refusal} :
      Reachable s → s.input = w :: rest → Machine.step s = .refused r → Reachable (s.take rest)

end Sys2Proof.Machine
end

