-- ==== Sys2Proof/Certificates/Slice0/Obligations.lean ====
section
/-! DEFINITION. The statements for the provers. Each docstring names the rule of spec/ or the section it rests on, and
the spec's own decision D<n> (spec/92_eei_decisions.md) or the assumption-log entry where a clause rests on one. -/

open Sys2Proof Sys2Proof.Machine

/-- The number that data bits spell in arrival order, first bit most significant: the sum of `30_encoding.md` R79 before
its reduction. -/
def Sys2Proof.Spec.bitsNumber (bits : List Bool) : Nat :=
  ∑ k ∈ Finset.range bits.length, (bits.getD k false).toNat * 2 ^ (bits.length - 1 - k)

/-- What the clock events of a frame do to the channel that is not the frame's: nothing if it is not selected; if it is,
they shift the same bits in, and its registers and counters stay (R62, R106). -/
def Sys2Proof.Spec.OtherChannelClocked (x y : ChannelDecoder) (bits : List Bool) : Prop :=
  (x.sel = false → y = x) ∧
  (x.sel = true →
    y = { x with sb := y.sb, bc := y.bc } ∧
    y.sb.toNat = (x.sb.toNat * 2 ^ bits.length + Sys2Proof.Spec.bitsNumber bits) % 2 ^ 32 ∧
    y.bc.toNat = (x.bc.toNat + bits.length) % 2 ^ 8)

/-! ### Reset, the step and decoding -/

/-- Every field after reset (70_reset_and_hazards.md section 1). The latches' and the loaded flags' values are the
spec's decision D19, `last` its decision D21. That the output sequences are empty is the model's, DEDUCED in log 21: no
rule states it. `input` and `delivered` are the model's own fields, logs 1 and 4. -/
def Obligations.ResetGivesTheStatedValues : Prop :=
  (∀ c, State.reset.ch.get c =
      { sel := false, sb := 0#32, bc := 0#8, ctrl := 0#8, disp := 0#32, nCtrl := 0#32, nDisp := 0#32 }) ∧
  (∀ c, State.reset.snap.get c = { ctrl := 0#8, disp := 0#32, ldCtrl := false, ldDisp := false }) ∧
  (∀ n, State.reset.sink n = { last := none, out := [] }) ∧
  State.reset.input = [] ∧ State.reset.delivered = 0

/-- A step handles the delivered word: with the word of a decoded operation at the head of `input`, step is exec of that
operation on the state with the word taken. The queue and the counter of words taken are the model's own (logs 1, 4);
the words are every one of the 32 (R70). -/
def Obligations.StepRunsTheDeliveredWord : Prop :=
  ∀ (s : State) (w : EventWord) (rest : List EventWord), s.input = w :: rest →
    decode [w] = .ok (decodeWord w) ∧
    step s = exec (decodeWord w) { s with input := rest, delivered := s.delivered + 1 }

/-- The model's choice, log 3: with no word delivered a step changes nothing. -/
def Obligations.StepIdlesWithoutAnEvent : Prop :=
  ∀ s : State, s.input = [] → step s = .next s

/-- Placing an opcode-table event word delivers it next: the step after it runs the operation the decoder reads from the
word. The placing is the model's choice, log 1; that eight bits of value below 32 are an event word, and not a control
frame's data, is its choice too, log 2; the counter of words taken is the model's own, log 4. -/
def Obligations.PlacedEventWordRunsNext : Prop :=
  ∀ (s : State) (w : Nat), w < 32 →
    decodeTableWord 8 w = some (decodeWord (BitVec.ofNat 5 w)) ∧
    step (s.withFetchWord 8 w) =
      exec (decodeWord (BitVec.ofNat 5 w)) { s with delivered := s.delivered + 1 }

/-- One word of each family, written from the opcode map of 30_encoding.md section 1 (the event word is the spec's
decision D2). -/
def Obligations.SampleWordsDecodeAsTheMapSays : Prop :=
  decodeWord 0b00001#5 = .sckRise .high ∧ decodeWord 0b00110#5 = .csAssert .R ∧
  decodeWord 0b00101#5 = .csDeassert .L ∧ decodeWord 0b01010#5 = .readCtrl .R ∧
  decodeWord 0b01100#5 = .readDisp .L ∧ decodeWord 0b10000#5 = .publishTime ∧
  decodeWord 0b10100#5 = .publishStatus ∧ decodeWord 0b00011#5 = .reservedSckC1 .high ∧
  decodeWord 0b01101#5 = .reservedReadV1 true .L ∧ decodeWord 0b11111#5 = .reservedK11x true .R .high ∧
  decode [0b00110#5, 0b00001#5, 0b00000#5, 0b00111#5] = .ok (.frameDiscard .R [true, false])

/-- Decoding an encoding gives the instruction back: for every well-formed instruction, with every operand at every
value, frames of every length among them. -/
def Obligations.DecodeOfEncodeIsTheInstruction : Prop :=
  ∀ i : Instr, i.WellFormed → decode (encode i) = .ok i

/-- Encoding what was decoded gives the words back, and what is decoded is well formed. -/
def Obligations.EncodeOfDecodeIsTheWords : Prop :=
  ∀ (ws : List EventWord) (i : Instr), decode ws = .ok i → i.WellFormed ∧ encode i = ws

/-! ### The edge events -/

/-- R100: a select edge is CS_ASSERT where the level read is low (`CS_ACTIVE`) and CS_DEASSERT where it is high,
whatever the channel's state: the event word `001 C V` runs the operation of its level. The handler fires on any edge of
the line, whatever its direction, and the word it delivers carries the level it reads. -/
def Obligations.SelectEdgeFollowsTheLevelRead : Prop :=
  ∀ (c : Channel) (s : State),
    (∀ v : Level, exec (decodeWord (eventWord 1 c v)) s =
      if v = .low then exec (.csAssert c) s else exec (.csDeassert c) s) ∧
    ∀ l : Lines, ∃ w, eventOfEdge l (.cs c) = some w ∧
      exec (decodeWord w) s = if l.cs c = .low then exec (.csAssert c) s else exec (.csDeassert c) s

/-- R101: an assert clears the shift buffer and the bit count, sets `sel`, and changes nothing else. -/
def Obligations.AssertClearsTheFrame : Prop :=
  ∀ (c : Channel) (s : State),
    exec (.csAssert c) s =
      .next { s with ch := s.ch.set c { s.ch.get c with sel := true, sb := 0#32, bc := 0#8 } }

/-- R103: a deassert at length 8 commits `sb[7:0]` to the control register, counts the commit, clears `sel`, and changes
nothing else. -/
def Obligations.DeassertAtEightCommitsControl : Prop :=
  ∀ (c : Channel) (s : State), (s.ch.get c).bc.toNat = 8 →
    exec (.csDeassert c) s =
      .next { s with ch := s.ch.set c { s.ch.get c with
        sel := false, ctrl := (s.ch.get c).sb.extractLsb' 0 8, nCtrl := (s.ch.get c).nCtrl + 1 } }

/-- A deassert at length 24 commits all 32 bits of `sb` to the display register, counts the commit, clears `sel`, and
changes nothing else (40_channel_decoder.md section 1; that bits 31:24 are copied too is the spec's decision D6). -/
def Obligations.DeassertAtTwentyFourCommitsDisplay : Prop :=
  ∀ (c : Channel) (s : State), (s.ch.get c).bc.toNat = 24 →
    exec (.csDeassert c) s =
      .next { s with ch := s.ch.set c { s.ch.get c with
        sel := false, disp := (s.ch.get c).sb, nDisp := (s.ch.get c).nDisp + 1 } }

/-- R105: a deassert at any other length clears `sel` and changes nothing else; `sb` and `bc` stay. -/
def Obligations.DeassertAtAnyOtherLengthDiscards : Prop :=
  ∀ (c : Channel) (s : State), (s.ch.get c).bc.toNat ≠ 8 → (s.ch.get c).bc.toNat ≠ 24 →
    exec (.csDeassert c) s = .next { s with ch := s.ch.set c { s.ch.get c with sel := false } }

/-- A clock event on each channel: a selected one shifts the data bit in at bit 0, loses bit 31 and counts modulo 2^8;
one that is not selected is unchanged; nothing else changes (40_channel_decoder.md section 2; that the count wraps is
the spec's decision D4, that high is bit 1 its decision D8). -/
def Obligations.ClockShiftsTheSelectedChannels : Prop :=
  ∀ (v : Level) (s : State), ∃ t, exec (.sckRise v) s = .next t ∧ t = { s with ch := t.ch } ∧
    ∀ c, ((s.ch.get c).sel = false → t.ch.get c = s.ch.get c) ∧
      ((s.ch.get c).sel = true →
        t.ch.get c = { s.ch.get c with sb := (t.ch.get c).sb, bc := (t.ch.get c).bc } ∧
        (t.ch.get c).sb.toNat = (2 * (s.ch.get c).sb.toNat + if v = .high then 1 else 0) % 2 ^ 32 ∧
        (t.ch.get c).bc.toNat = ((s.ch.get c).bc.toNat + 1) % 2 ^ 8)

/-- The clock dispatch's order cannot be seen: right before left gives the same state (42_bus_monitor.md; the order is
the spec's decision D11). -/
def Obligations.ClockDispatchOrderIsUnobservable : Prop :=
  ∀ (d : Bool) (s : State), s.sckRise d = (s.clockChannel d .R).clockChannel d .L

/-- Shift-register assembly: after an assert and clock events with these bits, `sb` is their number modulo 2^32, first
bit most significant, and `bc` their count modulo 2^8 (30_encoding.md section 3; the wrap of `bc` is decision D4). -/
def Obligations.ClockedBitsAssembleMsbFirst : Prop :=
  ∀ (c : Channel) (bits : List Bool) (s : State),
    let t := afterTrace s (assertWord c :: bits.map clockWord)
    (t.ch.get c).sel = true ∧
    (t.ch.get c).sb.toNat = Sys2Proof.Spec.bitsNumber bits % 2 ^ 32 ∧
    (t.ch.get c).bc.toNat = bits.length % 2 ^ 8

/-- R237: an assert in the middle of a frame restarts it from empty and commits nothing: whatever was clocked since the
first assert, the channel is as after one assert. -/
def Obligations.ReassertRestartsTheFrame : Prop :=
  ∀ (c : Channel) (bits : List Bool) (s : State),
    (afterTrace s (assertWord c :: (bits.map clockWord ++ [assertWord c]))).ch.get c =
      { s.ch.get c with sel := true, sb := 0#32, bc := 0#8 }

/-- A frame in progress at start is lost: with the channel not selected and its count 0, any clock events and then the
deassert leave the channel as it was (70_reset_and_hazards.md section 1). -/
def Obligations.FrameUnderwayAtStartIsLost : Prop :=
  ∀ (c : Channel) (bits : List Bool) (s : State), (s.ch.get c).sel = false → (s.ch.get c).bc = 0 →
    (afterTrace s (bits.map clockWord ++ [deassertWord c])).ch.get c = s.ch.get c

/-- A second deassert, whatever is clocked before it, commits the same register value again: the register keeps its
value and the counter of the register that the first one committed rises by one more (20_memory.md section 2,
40_channel_decoder.md section 1). -/
def Obligations.SecondDeassertRecommits : Prop :=
  ∀ (c : Channel) (bits : List Bool) (s : State),
    let one := (s.csDeassert c).ch.get c
    let two := (afterTrace s (deassertWord c :: (bits.map clockWord ++ [deassertWord c]))).ch.get c
    two = { one with
      nCtrl := if one.bc.toNat = 8 then one.nCtrl + 1 else one.nCtrl
      nDisp := if one.bc.toNat = 24 then one.nDisp + 1 else one.nDisp }

/-- The four orders of a coincident select edge and clock edge: assert first counts the bit, clock first drops it; clock
before the deassert counts it into the settling frame, deassert first leaves it out (60_exceptions.md section 2,
decision D10). -/
def Obligations.CoincidentEdgesDependOnTheirOrder : Prop :=
  ∀ (c : Channel) (b : Bool) (s : State),
    ((afterTrace s [assertWord c, clockWord b]).ch.get c).bc = 1 ∧
    ((afterTrace s [clockWord b, assertWord c]).ch.get c).bc = 0 ∧
    ((s.ch.get c).sel = true →
      ((afterTrace s [clockWord b, deassertWord c]).ch.get c).bc = (s.ch.get c).bc + 1) ∧
    ((afterTrace s [deassertWord c, clockWord b]).ch.get c).bc = (s.ch.get c).bc

/-! ### Frames -/

/-- FRAME_CONTROL completes in every state: the control register holds the value, its counter has counted the commit,
the display register and its counter are unchanged, the other channel saw the clock events only, and nothing outside the
channels changed (R103; 30_encoding.md section 2; that leads of 256·k bits wrap is decision D4). -/
def Obligations.ControlFrameWritesItsValue : Prop :=
  ∀ (c : Channel) (lead : List Bool) (value : CtrlWord) (s : State), (Instr.frameControl c lead value).WellFormed →
    ∃ t, exec (.frameControl c lead value) s = .next t ∧ t = { s with ch := t.ch } ∧
      t.ch.get c = { s.ch.get c with
        sel := false, sb := (t.ch.get c).sb, bc := 8#8, ctrl := value, nCtrl := (s.ch.get c).nCtrl + 1 } ∧
      (t.ch.get c).sb.toNat = Sys2Proof.Spec.bitsNumber (controlFrameBits lead value) % 2 ^ 32 ∧
      Sys2Proof.Spec.OtherChannelClocked (s.ch.get c.other) (t.ch.get c.other) (controlFrameBits lead value)

/-- FRAME_DISPLAY completes in every state: display bits 23:0 hold the value and bits 31:24 the last eight bits clocked
before it, so they are 0 in a clean frame; the counter has counted the commit, the control register and its counter are
unchanged, the other channel saw the clock events only, and nothing outside the channels changed (30_encoding.md section
2; bits 31:24 are decision D6, the wrap decision D4). -/
def Obligations.DisplayFrameWritesItsValue : Prop :=
  ∀ (c : Channel) (lead : List Bool) (value : DispPayload) (s : State), (Instr.frameDisplay c lead value).WellFormed →
    ∃ t, exec (.frameDisplay c lead value) s = .next t ∧ t = { s with ch := t.ch } ∧
      t.ch.get c = { s.ch.get c with
        sel := false, sb := (t.ch.get c).sb, bc := 24#8, disp := (t.ch.get c).disp, nDisp := (s.ch.get c).nDisp + 1 } ∧
      (t.ch.get c).disp = (t.ch.get c).sb ∧
      (t.ch.get c).disp = BitVec.ofNat 8 (Sys2Proof.Spec.bitsNumber lead) ++ value ∧
      Sys2Proof.Spec.OtherChannelClocked (s.ch.get c.other) (t.ch.get c.other) (displayFrameBits lead value)

/-- FRAME_DISCARD completes in every state: it changes neither register nor either counter of its channel; the other
channel saw the clock events only, and nothing outside the channels changed (30_encoding.md sections 2 and 3;
20_memory.md section 4). That the row does its events in one go is the model's choice, log 5; that the length is counted
modulo 2^8 is the spec's decision D4, that both channels may be selected its decision D22. -/
def Obligations.DiscardedFrameChangesNoRegister : Prop :=
  ∀ (c : Channel) (bits : List Bool) (s : State), (Instr.frameDiscard c bits).WellFormed →
    ∃ t, exec (.frameDiscard c bits) s = .next t ∧ t = { s with ch := t.ch } ∧
      t.ch.get c = { s.ch.get c with sel := false, sb := (t.ch.get c).sb, bc := (t.ch.get c).bc } ∧
      (t.ch.get c).sb.toNat = Sys2Proof.Spec.bitsNumber bits % 2 ^ 32 ∧
      (t.ch.get c).bc.toNat = bits.length % 2 ^ 8 ∧
      Sys2Proof.Spec.OtherChannelClocked (s.ch.get c.other) (t.ch.get c.other) bits

/-- R75: the words of a control frame, its data bits given in arrival order, write the control register with the last
eight of them: of b0 to b7, b0 is `ctrl[7]` and b7 is `ctrl[0]`. The length is counted modulo 256. -/
def Obligations.ControlFrameBitOrder : Prop :=
  ∀ (c : Channel) (bits : List Bool) (s : State), bits.length % 256 = 8 → ∀ k, k < 8 →
    ((afterTrace s (assertWord c :: (bits.map clockWord ++ [deassertWord c]))).ch.get c).ctrl.getLsbD (7 - k) =
      bits.getD (bits.length - 8 + k) false

/-- R76: the words of a display frame write the display register with the last 24 data bits: of b0 to b23, b0 is
`disp[23]` and b23 is `disp[0]`; for a frame of exactly 24 clocks `disp[31:24]` is 0. -/
def Obligations.DisplayFrameBitOrder : Prop :=
  ∀ (c : Channel) (bits : List Bool) (s : State), bits.length % 256 = 24 →
    let t := afterTrace s (assertWord c :: (bits.map clockWord ++ [deassertWord c]))
    (∀ k, k < 24 → (t.ch.get c).disp.getLsbD (23 - k) = bits.getD (bits.length - 24 + k) false) ∧
    (t.ch.get c).disp.extractLsb' 24 8 = (t.ch.get c).sb.extractLsb' 24 8 ∧
    (bits.length = 24 → (t.ch.get c).disp.extractLsb' 24 8 = 0)

/-- A frame's meaning is what the step does with its words: with a frame's words next in `input`, as many steps as it
has words lead to the state exec gives the frame on the state with those words taken. So each frame row is a run of
atomic steps, and its meaning reaches a run through this (30_encoding.md section 2; the queue is log 1, frames log 5). -/
def Obligations.FrameIsTheRunOfItsWords : Prop :=
  ∀ (i : Instr) (rest : List EventWord) (s : State),
    (∃ c bits, encode i = frameWords c bits) → s.input = encode i ++ rest →
    runSteps (encode i).length s =
      exec i { s with input := rest, delivered := s.delivered + (encode i).length }

/-! ### Whole-decoder rules -/

/-- The registers and counters of a channel change only by its own commits: where an operation changes the control
register or its counter, it is a deassert of that channel at length 8, or a frame of that channel, and likewise the
display register at length 24 (10_state.md section 1: R24 to R26 say by what the registers are written). -/
def Obligations.RegistersChangeOnlyByCommits : Prop :=
  ∀ (i : Instr) (s t : State) (c : Channel), exec i s = .next t →
    (((t.ch.get c).ctrl ≠ (s.ch.get c).ctrl ∨ (t.ch.get c).nCtrl ≠ (s.ch.get c).nCtrl) →
      ((i = .csDeassert c ∧ (s.ch.get c).bc.toNat = 8) ∨ ∃ bits, encode i = frameWords c bits ∧ bits.length % 256 = 8)) ∧
    (((t.ch.get c).disp ≠ (s.ch.get c).disp ∨ (t.ch.get c).nDisp ≠ (s.ch.get c).nDisp) →
      ((i = .csDeassert c ∧ (s.ch.get c).bc.toNat = 24) ∨ ∃ bits, encode i = frameWords c bits ∧ bits.length % 256 = 24))

/-- Between its deasserting edges a channel keeps its committed registers and counters, whatever else is delivered
(10_state.md section 1; 20_memory.md section 2). -/
def Obligations.RegistersHoldBetweenDeasserts : Prop :=
  ∀ (c : Channel) (ws : List EventWord) (s : State), (∀ w ∈ ws, decodeWord w ≠ .csDeassert c) →
    let x := s.ch.get c
    let y := (afterTrace s ws).ch.get c
    y.ctrl = x.ctrl ∧ y.disp = x.disp ∧ y.nCtrl = x.nCtrl ∧ y.nDisp = x.nDisp

/-- No event of one channel reads a field of the other: after any trace, a channel's fields depend on its own fields
before it alone (10_state.md section 1; 20_memory.md section 4; both channels selected at once is decision D22). -/
def Obligations.ChannelsAreIndependent : Prop :=
  ∀ (c : Channel) (ws : List EventWord) (s s' : State), s.ch.get c = s'.ch.get c →
    (afterTrace s ws).ch.get c = (afterTrace s' ws).ch.get c

/-- R51: no poll operation writes a channel field, no edge event reads or writes a poll-agent or sink field, and a
publish reads no channel field, so that `ctrl` and `disp` reach the poll agent through the two read operations only. -/
def Obligations.ContextsKeepToTheirOwnState : Prop :=
  ∀ (i : Instr) (s s' : State),
    (contextOf i = some .polling → ∀ t, exec i s = .next t → t.ch = s.ch) ∧
    (contextOf i = some .interrupt → s.ch = s'.ch →
      ∃ t t', exec i s = .next t ∧ exec i s' = .next t' ∧ t.ch = t'.ch ∧
        t.snap = s.snap ∧ t.time = s.time ∧ t.status = s.status) ∧
    (i = .publishTime ∨ i = .publishStatus → s.snap = s'.snap → s.time = s'.time → s.status = s'.status →
      (∀ t, exec i s = .next t → ∃ t', exec i s' = .next t' ∧ t.time = t'.time ∧ t.status = t'.status) ∧
      (∀ r, exec i s = .refused r → exec i s' = .refused r))

/-- R112: every valid event word finishes in one step: it answers a next state in every state, the two publish
operations wherever the latches they need are loaded. -/
def Obligations.ValidWordsNeverBlock : Prop :=
  ∀ (w : EventWord) (s : State), contextOf (decodeWord w) ≠ none →
    (decodeWord w = .publishTime → timeLoaded s = true) → (decodeWord w = .publishStatus → statusLoaded s = true) →
    ∃ t, exec (decodeWord w) s = .next t

/-- Every operation answers a next state or one of the two refusals, each for its own cause, and nothing else; so does
every step (00_scope.md section 4, R11; 60_exceptions.md section 1, R210 and R212). That a reserved word is refused is the
spec's decision D24, that a publish from an unread latch is, its decision D19. -/
def Obligations.EveryAnswerIsANextStateOrANamedRefusal : Prop :=
  ∀ s : State,
    (∀ i : Instr,
      (∃ t, exec i s = .next t) ∨
      (exec i s = .refused .reservedEvent ∧ contextOf i = none) ∨
      (exec i s = .refused .snapshotNotLoaded ∧
        ((i = .publishTime ∧ timeLoaded s = false) ∨ (i = .publishStatus ∧ statusLoaded s = false)))) ∧
    ((∃ t, step s = .next t) ∨ step s = .refused .reservedEvent ∨ step s = .refused .snapshotNotLoaded)

/-! ### Refusals and delivery -/

/-- The reserved event words are refused in every state (30_encoding.md section 1; decision D24). -/
def Obligations.ReservedWordsAreRefused : Prop :=
  ∀ (k0 : Bool) (c : Channel) (v : Level) (s : State),
    exec (.reservedSckC1 v) s = .refused .reservedEvent ∧
    exec (.reservedReadV1 k0 c) s = .refused .reservedEvent ∧
    exec .reservedPublishTimeV1 s = .refused .reservedEvent ∧
    exec (.reservedPublishTimeC1 v) s = .refused .reservedEvent ∧
    exec .reservedPublishStatusV1 s = .refused .reservedEvent ∧
    exec (.reservedPublishStatusC1 v) s = .refused .reservedEvent ∧
    exec (.reservedK11x k0 c v) s = .refused .reservedEvent

/-- Which words are reserved: 0x02, 0x03, 0x09, 0x0B, 0x0D, 0x0F, 0x11 to 0x13, 0x15 to 0x17, 0x18 to 0x1F, and no
other word is ever refused with that reason (30_encoding.md section 1; decision D24). -/
def Obligations.ExactlyTheListedWordsAreReserved : Prop :=
  ∀ (w : EventWord) (s : State), exec (decodeWord w) s = .refused .reservedEvent ↔
    w.toNat ∈ [0x02, 0x03, 0x09, 0x0B, 0x0D, 0x0F, 0x11, 0x12, 0x13, 0x15, 0x16, 0x17,
      0x18, 0x19, 0x1A, 0x1B, 0x1C, 0x1D, 0x1E, 0x1F]

/-- A refused word leaves no mark: a trace with a reserved word anywhere in it ends in the state of the trace without it
(30_encoding.md section 1, 60_exceptions.md section 1; decision D24). -/
def Obligations.RefusedWordsLeaveNoMark : Prop :=
  ∀ (before after : List EventWord) (w : EventWord) (s : State), contextOf (decodeWord w) = none →
    afterTrace s (before ++ w :: after) = afterTrace s (before ++ after)

/-- Edge loss: with `LOSSY_EDGES` false every delivered word is handled; with it true a poll operation is still handled,
and an edge is either handled or dropped without effect (60_exceptions.md section 2; decision D12; log 4). -/
def Obligations.OnlyEdgesCanBeLost : Prop :=
  ∀ (lossy : Bool) (s : State) (w : EventWord) (rest : List EventWord), s.input = w :: rest →
    let handled := exec (decodeWord w) { s with input := rest, delivered := s.delivered + 1 }
    (lossy = false → handleNext lossy s = handled) ∧
    (contextOf (decodeWord w) ≠ some .interrupt → handleNext lossy s = handled) ∧
    (handleNext lossy s = handled ∨
      handleNext lossy s = .next { s with input := rest, delivered := s.delivered + 1 })

/-! ### The poll agent -/

/-- READ_CTRL and READ_DISP latch the register and set its loaded flag, and change nothing else (40_channel_decoder.md
section 3; decision D19). -/
def Obligations.ReadsLatchTheRegister : Prop :=
  ∀ (c : Channel) (s : State),
    exec (.readCtrl c) s =
      .next { s with snap := s.snap.set c { s.snap.get c with ctrl := (s.ch.get c).ctrl, ldCtrl := true } } ∧
    exec (.readDisp c) s =
      .next { s with snap := s.snap.set c { s.snap.get c with disp := (s.ch.get c).disp, ldDisp := true } }

/-- Torn reads: with any bus events between the two reads of the left channel, the snapshot pairs the control register
from before them with the display register from after them (20_memory.md section 2). -/
def Obligations.TornReadPairsOldAndNew : Prop :=
  ∀ (bus : List EventWord) (s : State), (∀ w ∈ bus, contextOf (decodeWord w) = some .interrupt) →
    let t := afterTrace s (assemble [.rdc .L] ++ bus ++ assemble [.rdd .L])
    t.snap.L.ctrl = s.ch.L.ctrl ∧ t.snap.L.disp = (afterTrace s bus).ch.L.disp ∧
    t.snap.L.ldCtrl = true ∧ t.snap.L.ldDisp = true

/-- A latch keeps the value of the most recent read: after a read of a control register, whatever follows without
another read of it, the latch holds what the register held at the read, and it stays loaded; likewise the display
register (10_state.md section 4; decision D19). -/
def Obligations.LatchKeepsTheMostRecentRead : Prop :=
  ∀ (c : Channel) (ws : List EventWord) (s : State),
    ((∀ w ∈ ws, decodeWord w ≠ .readCtrl c) →
      let t := afterTrace s (eventWord 2 c .low :: ws)
      (t.snap.get c).ctrl = (s.ch.get c).ctrl ∧ (t.snap.get c).ldCtrl = true) ∧
    ((∀ w ∈ ws, decodeWord w ≠ .readDisp c) →
      let t := afterTrace s (eventWord 3 c .low :: ws)
      (t.snap.get c).disp = (s.ch.get c).disp ∧ (t.snap.get c).ldDisp = true)

/-- With its latches loaded, PUBLISH_TIME publishes the format of the left snapshot: nothing changes where that is the
string last published; otherwise it is appended to the output and remembered, and nothing else changes. With a latch it
needs not loaded it is refused (45_publication.md; the refusal is the spec's decision D19). -/
def Obligations.PublishTimeEmitsTheFormat : Prop :=
  ∀ s : State,
    (s.snap.L.ldCtrl = true ∧ s.snap.L.ldDisp = true →
      let x := formatTime Config.modeTest s.snap.L.ctrl s.snap.L.disp
      exec .publishTime s = .next
        (if s.time.last = some x then s else { s with time := { last := some x, out := s.time.out ++ [x] } })) ∧
    (¬ (s.snap.L.ldCtrl = true ∧ s.snap.L.ldDisp = true) → exec .publishTime s = .refused .snapshotNotLoaded)

/-- With its latches loaded, PUBLISH_STATUS publishes the format of the left snapshot and the right display latch,
likewise; with a latch it needs not loaded it is refused (45_publication.md; the refusal is the spec's decision D19). -/
def Obligations.PublishStatusEmitsTheFormat : Prop :=
  ∀ s : State,
    (s.snap.L.ldCtrl = true ∧ s.snap.L.ldDisp = true ∧ s.snap.R.ldDisp = true →
      let x := formatState Config.modeTest s.snap.L.ctrl s.snap.L.disp s.snap.R.disp
      exec .publishStatus s = .next
        (if s.status.last = some x then s else { s with status := { last := some x, out := s.status.out ++ [x] } })) ∧
    (¬ (s.snap.L.ldCtrl = true ∧ s.snap.L.ldDisp = true ∧ s.snap.R.ldDisp = true) →
      exec .publishStatus s = .refused .snapshotNotLoaded)

/-- Publishing is idempotent: after a publish, any edges and no read, the same publish changes nothing
(45_publication.md; 20_memory.md section 2). -/
def Obligations.RepublishWithoutReadEmitsNothing : Prop :=
  ∀ (bus : List EventWord) (s : State), (∀ w ∈ bus, contextOf (decodeWord w) = some .interrupt) →
    (timeLoaded s = true →
      (afterTrace s (assemble [.pubt] ++ bus ++ assemble [.pubt])).time = (afterTrace s (assemble [.pubt])).time) ∧
    (statusLoaded s = true →
      (afterTrace s (assemble [.pubs] ++ bus ++ assemble [.pubs])).status = (afterTrace s (assemble [.pubs])).status)

/-- The first tick after reset publishes the time " " and the status "Door open", and nothing else
(70_reset_and_hazards.md section 1). That a sink's first publish always emits is the spec's decision D21; that its output
sequence is empty at reset is the model's, DEDUCED in log 21. -/
def Obligations.FirstTickPublishesDoorOpen : Prop :=
  (afterTrace State.reset (assemble traceTick)).time.out = [" "] ∧
  (afterTrace State.reset (assemble traceTick)).status.out = ["Door open"]

/-! ### Glyphs and formatters -/

/-- R130, R133: normal mode reproduces '0' to '9', 'A' to 'F' and is a bijection onto them; special mode reproduces the
fixed table, with 0x7 and 0xF both 'o', and its image has 15 characters. -/
def Obligations.GlyphTables : Prop :=
  let normal := ['0', '1', '2', '3', '4', '5', '6', '7', '8', '9', 'A', 'B', 'C', 'D', 'E', 'F']
  let table := [' ', 'c', 'H', 'h', 'J', 'L', 'n', 'o', 'P', 'r', 'U', 'u', 'y', '-', '=', 'o']
  (∀ n : Nibble, some (decodeGlyph n false) = normal[n.toNat]?) ∧
  (∀ a ∈ normal, ∃ n : Nibble, decodeGlyph n false = a ∧ ∀ m, decodeGlyph m false = a → m = n) ∧
  (∀ n : Nibble, some (decodeGlyph n true) = table[n.toNat]?) ∧
  (decodeGlyph 0x7 true = 'o' ∧ decodeGlyph 0xF true = 'o' ∧ table.dedup.length = 15)

/-- The mask test by bits: under `all`, glyph i is special iff bit 6 and bit i+1 of the control register are both set;
under `any`, iff either is (41_glyph_decode.md; that the machine uses `all` is the spec's decision D13). -/
def Obligations.SpecialModeBits : Prop :=
  ∀ (i : Fin 3) (ctrl : CtrlWord),
    special .all i ctrl = (ctrl.getLsbD 6 && ctrl.getLsbD (i.val + 1)) ∧
    special .any i ctrl = (ctrl.getLsbD 6 || ctrl.getLsbD (i.val + 1)) ∧
    Config.modeTest = .all

/-- R162: the classification is DoorOpen where control bit 0 is clear, whatever the glyph; else Fault where the low-order
glyph is '-'; else Normal. For both readings of the mask test. -/
def Obligations.ClassificationOfTheLeftRegisters : Prop :=
  ∀ (t : ModeTest) (lc : CtrlWord) (ld : DispWord),
    (decodeState t lc ld = .doorOpen ↔ lc.getLsbD 0 = false) ∧
    (decodeState t lc ld = .fault ↔ lc.getLsbD 0 = true ∧ glyph t 0 lc ld = '-') ∧
    (decodeState t lc ld = .normal ↔ lc.getLsbD 0 = true ∧ glyph t 0 lc ld ≠ '-')

/-- The time by its glyphs: off gives " ", a low '-' gives "---", a blank low glyph gives " ", a blank high glyph gives
the minutes and " min", and otherwise hours and minutes; a blank middle glyph is suppressed. For both readings of the mask
test (43_state_interpreter.md; that the low glyph is the one checked for blank is the spec's decision D15). -/
def Obligations.TimeByItsGlyphs : Prop :=
  ∀ (t : ModeTest) (lc : CtrlWord) (ld : DispWord),
    let g0 := glyph t 0 lc ld
    let g1 := glyph t 1 lc ld
    let g2 := glyph t 2 lc ld
    let mins := if g1 = ' ' then [g0] else [g1, g0]
    (formatTime t lc ld).toList =
      if lc.getLsbD 0 = false then [' ']
      else if g0 = '-' then ['-', '-', '-']
      else if g0 = ' ' then [' ']
      else if g2 = ' ' then mins ++ [' ', 'm', 'i', 'n']
      else [g2, 'h', ' '] ++ mins ++ ['m']

/-- The fault indicator and the classification agree: the time is "---" exactly where the classification is Fault, which
is where the display is on, glyph 0 is special and the low nibble is 0xD; and it is " " wherever the classification is
DoorOpen (43_state_interpreter.md; the nibble's place is the spec's decision D14, the check of step 3 its D15). -/
def Obligations.DashesExactlyOnFault : Prop :=
  ∀ (t : ModeTest) (lc : CtrlWord) (ld : DispWord),
    (formatTime t lc ld = "---" ↔ decodeState t lc ld = .fault) ∧
    (decodeState t lc ld = .fault ↔ lc.getLsbD 0 = true ∧ special t 0 lc = true ∧ ld.extractLsb' 0 4 = 0xD#4) ∧
    (decodeState t lc ld = .doorOpen → formatTime t lc ld = " ")

/-- The progress and centrifuge codes by bits: P[7:4] is Rd[15:12], P[3] is 0, P[2:0] is Rd[2:0]; S[6:1] is Rd[22:17]
and S[0] and S[7] are 0 (44_status_formatter.md; the formulas are the spec's resolutions C3 and decision D18). -/
def Obligations.ProgressAndSpinCodesByBits : Prop :=
  ∀ rd : DispWord,
    progressCode rd = rd.extractLsb' 12 4 ++ 0#1 ++ rd.extractLsb' 0 3 ∧
    spinCode rd = 0#1 ++ rd.extractLsb' 17 6 ++ 0#1

/-- The label tables: each code's label, and none for a code not listed (44_status_formatter.md; exact match is the
spec's decisions D17 and D18). -/
def Obligations.PhaseAndSpinLabelTables : Prop :=
  ∀ (rd : DispWord) (g2 g1 g0 : Char),
    progressLabel rd g2 g1 g0 =
      ((([(0x10, "Pre-washing"), (0x20, "Washing"), (0x40, "Rinsing"), (0x80, "Paused Rinse"), (0x01, "Pumping"),
        (0x02, "Spinning"), (0x04, if (g2, g1, g0) = (' ', ' ', '0') then "Finished" else "Idle"),
        (0x00, "Ready")] : List (Nat × String)).lookup (progressCode rd).toNat).toList) ∧
    spinLabel rd =
      ((([(0x02, "Ø 1600"), (0x04, "Ø 1400"), (0x08, "Ø 1200"), (0x50, "Ø 900"), (0x40, "Ø 600"), (0x30, "Ø 400"),
        (0x20, "Ø Rinse-pause"), (0x10, "Ø No")] : List (Nat × String)).lookup (spinCode rd).toNat).toList)

/-- R185: the option labels are those of the set bits among 8, 6, 7 and 16 (masks 0x100, 0x40, 0x80, 0x010000), in that
order. -/
def Obligations.OptionLabelsInDeclaredOrder : Prop :=
  ∀ rd : DispWord,
    optionLabels rd =
      (([(8, "Pre-wash"), (6, "Short"), (7, "Wasser Plus"), (16, "Summer")] : List (Nat × String)).filter
        (fun p => rd.getLsbD p.1)).map (·.2)

/-- The status by its classification: "Door open" or "Fault" and then the options only; in the Normal state the progress
label, the centrifuge label and the options, joined with ", " (44_status_formatter.md; that options follow the override
is the spec's decision D16, the empty string for no label its decision D27). -/
def Obligations.StatusByItsClassification : Prop :=
  ∀ (t : ModeTest) (lc : CtrlWord) (ld rd : DispWord),
    formatState t lc ld rd = String.intercalate ", " (
      (match decodeState t lc ld with
        | .doorOpen => ["Door open"]
        | .fault => ["Fault"]
        | .normal => progressLabel rd (glyph t 2 lc ld) (glyph t 1 lc ld) (glyph t 0 lc ld) ++ spinLabel rd)
      ++ optionLabels rd)

/-- The status reads only bits 0 to 3 and 6 of the left control register, bits 11:0 of the left display register, and
bits 0 to 2, 6 to 8 and 12 to 22 of the right one; the time only the first two (44_status_formatter.md, last rule;
43_state_interpreter.md; nibble positions are the spec's decision D14). -/
def Obligations.FormattersReadOnlyTheirBits : Prop :=
  ∀ (t : ModeTest) (lc lc' : CtrlWord) (ld ld' rd rd' : DispWord),
    (∀ k, k ∈ [0, 1, 2, 3, 6] → lc.getLsbD k = lc'.getLsbD k) →
    (∀ k, k < 12 → ld.getLsbD k = ld'.getLsbD k) →
    formatTime t lc ld = formatTime t lc' ld' ∧
    ((∀ k, k ≤ 2 ∨ (6 ≤ k ∧ k ≤ 8) ∨ (12 ≤ k ∧ k ≤ 22) → rd.getLsbD k = rd'.getLsbD k) →
      formatState t lc ld rd = formatState t lc' ld' rd')

/-! ### The bus monitor -/

/-- R83: a falling edge of the clock delivers no event, whatever the lines' levels, so it changes no state: a run of line
transitions delivers the same words, and leaves the same state, with falling clock edges anywhere in it. -/
def Obligations.FallingClockEdgeDeliversNothing : Prop :=
  ∀ (l : Lines) (before after : List (Lines × LineEdge)) (s : State),
    eventOfEdge l (.sck .falling) = none ∧
    afterTrace s (eventsOfEdges (before ++ (l, .sck .falling) :: after)) = afterTrace s (eventsOfEdges (before ++ after))

/-- Each select line has its own handler, on any edge: an edge of a channel's line delivers that channel's CS_EDGE with the
level read; beside it a rising clock edge delivers SCK_RISE with the level of DATA (42_bus_monitor.md R151 and R152; the
words are the spec's decision D2). -/
def Obligations.LineEdgesDeliverTheirEvents : Prop :=
  ∀ (l : Lines),
    eventOfEdge l (.cs .L) = some (if l.csL = .high then 0b00101#5 else 0b00100#5) ∧
    eventOfEdge l (.cs .R) = some (if l.csR = .high then 0b00111#5 else 0b00110#5) ∧
    eventOfEdge l (.sck .rising) = some (if l.data = .high then 0b00001#5 else 0b00000#5)

/-! ### Invariants and what no output depends on -/

/-- The invariant holds after reset. It rests on the reset latches, the spec's decision D19, on `last` = none, its
decision D21, and on the empty output sequences, which the model DEDUCED (log 21). -/
def Obligations.ResetMeetsTheInvariant : Prop :=
  State.reset.Inv

/-- Every step keeps the invariant, from every state that has it. -/
def Obligations.StepKeepsTheInvariant : Prop :=
  ∀ s t : State, s.Inv → step s = .next t → t.Inv

/-- Every state a run reaches from reset, whatever the environment delivers, has the invariant: in particular no
sink ever emits the same string twice in a row. The reachable states are those of the model's own queue, which the
environment fills (log 1, DESIGN CHOICE); the start of a run rests on the spec's decisions D19 and D21 and on the output
sequences that the model DEDUCED to be empty at reset (log 21). -/
def Obligations.ReachableStatesMeetTheInvariant : Prop :=
  ∀ s : State, Reachable s → s.Inv ∧ s.time.out.IsChain (· ≠ ·) ∧ s.status.out.IsChain (· ≠ ·)

/-- The diagnostic counters and the right channel's control register reach no output: two states that differ only in
them and in the right control latch emit the same strings and refuse the same words on every trace (10_state.md
sections 1 and 4: R26 says nothing reads the counters, R34 that no rule of the interpreter reads the right control
register). -/
def Obligations.CountersAndRightControlReachNoOutput : Prop :=
  ∀ (s s' : State) (ws : List EventWord),
    (∀ c, ∃ ctrl nCtrl nDisp, s'.ch.get c = { s.ch.get c with ctrl := ctrl, nCtrl := nCtrl, nDisp := nDisp }) →
    s'.ch.L.ctrl = s.ch.L.ctrl → s'.snap.L = s.snap.L → (∃ ctrl, s'.snap.R = { s.snap.R with ctrl := ctrl }) →
    s'.time = s.time → s'.status = s.status →
    (runTrace s' ws).1.time = (runTrace s ws).1.time ∧ (runTrace s' ws).1.status = (runTrace s ws).1.status ∧
    (runTrace s' ws).2 = (runTrace s ws).2
end

