-- ==== Sys2Proof/Laws/Config.lean ====
section
/-! SUPPORT. The parameters' values as rewriting lemmas, and the frame-length tests as arithmetic. -/

namespace Sys2Proof

@[simp] theorem Config.sbW_eq : Config.sbW = 32 := rfl
@[simp] theorem Config.bcW_eq : Config.bcW = 8 := rfl
@[simp] theorem Config.ctrlW_eq : Config.ctrlW = 8 := rfl
@[simp] theorem Config.dispW_eq : Config.dispW = 32 := rfl
@[simp] theorem Config.cntW_eq : Config.cntW = 32 := rfl
@[simp] theorem Config.ctrlLen_eq : Config.ctrlLen = 8 := rfl
@[simp] theorem Config.dispLen_eq : Config.dispLen = 24 := rfl

theorem leadWraps_iff (lead : List Bool) : leadWraps lead = true ↔ lead.length % 256 = 0 := by
  simp [leadWraps]

theorem isControlLength_iff (n : Nat) : isControlLength n = true ↔ n % 256 = 8 := by
  simp [isControlLength]

theorem isDisplayLength_iff (n : Nat) : isDisplayLength n = true ↔ n % 256 = 24 := by
  simp [isDisplayLength]

theorem isDiscardLength_iff (n : Nat) : isDiscardLength n = true ↔ n % 256 ≠ 8 ∧ n % 256 ≠ 24 := by
  simp [isDiscardLength, isControlLength, isDisplayLength]

end Sys2Proof
end

