-- ==== Sys2Proof/Laws/Decode.lean ====
section
/-! SUPPORT. The small lemmas of the encoding: the fields of a built event word, the decoding of the words a frame is
made of, and the assembly of bits, most significant first. -/

namespace Sys2Proof

/-! ### Levels and bits -/

@[simp] theorem dataBit_dataLevel (b : Bool) : dataBit (dataLevel b) = b := by
  cases b <;> rfl

@[simp] theorem dataLevel_dataBit (v : Level) : dataLevel (dataBit v) = v := by
  cases v <;> rfl

@[simp] theorem Channel.other_other (c : Channel) : c.other.other = c := by
  cases c <;> rfl

@[simp] theorem Channel.other_ne (c : Channel) : c.other ≠ c := by
  cases c <;> simp [Channel.other]

/-! ### Fields of an event word -/

theorem kindField_eventWord (k : BitVec 3) (c : Channel) (v : Level) : kindField (eventWord k c v) = k := by
  revert k; cases c <;> cases v <;> decide

theorem channelField_eventWord (k : BitVec 3) (c : Channel) (v : Level) : channelField (eventWord k c v) = c := by
  revert k; cases c <;> cases v <;> decide

theorem levelField_eventWord (k : BitVec 3) (c : Channel) (v : Level) : levelField (eventWord k c v) = v := by
  revert k; cases c <;> cases v <;> decide

@[simp] theorem decodeWord_clockWord (b : Bool) : decodeWord (clockWord b) = .sckRise (dataLevel b) := by
  cases b <;> rfl

@[simp] theorem decodeWord_assertWord (c : Channel) : decodeWord (assertWord c) = .csAssert c := by
  cases c <;> rfl

@[simp] theorem decodeWord_deassertWord (c : Channel) : decodeWord (deassertWord c) = .csDeassert c := by
  cases c <;> rfl

/-! ### Bits, most significant first -/

@[simp] theorem msbFirst_length {w : Nat} (v : BitVec w) (n : Nat) : (msbFirst v n).length = n := by
  induction n with
  | zero => rfl
  | succ n ih => simp [msbFirst, ih]

@[simp] theorem shiftInBits_nil {w : Nat} (v : BitVec w) : shiftInBits v [] = v := rfl

theorem shiftInBits_cons {w : Nat} (v : BitVec w) (b : Bool) (bits : List Bool) :
    shiftInBits v (b :: bits) = shiftInBits ((v <<< 1) ||| (BitVec.ofBool b).setWidth w) bits := rfl

theorem shiftInBits_append {w : Nat} (v : BitVec w) (a b : List Bool) :
    shiftInBits v (a ++ b) = shiftInBits (shiftInBits v a) b := by
  simp [shiftInBits]

/-- Which bit stands where after bits have been shifted in (R58, R79): the last in bit 0, each earlier one a place
higher, and the old value above them. -/
theorem shiftInBits_getLsbD {w : Nat} (v : BitVec w) (bits : List Bool) (i : Nat) :
    (shiftInBits v bits).getLsbD i =
      (decide (i < w) && if i < bits.length then bits.reverse.getD i false else v.getLsbD (i - bits.length)) := by
  induction bits generalizing v with
  | nil =>
    by_cases h : i < w
    · simp [h]
    · simp [h, BitVec.getLsbD_of_ge v i (by omega)]
  | cons b bits ih =>
    rw [shiftInBits_cons, ih]
    by_cases hw : i < w
    · simp only [hw, decide_true, Bool.true_and, List.length_cons, List.reverse_cons]
      by_cases h1 : i < bits.length
      · have h2 : i < bits.length + 1 := by omega
        simp only [h1, h2, if_true, List.getD_eq_getElem?_getD]
        rw [List.getElem?_append_left (by simpa using h1)]
      · by_cases h2 : i = bits.length
        · subst h2
          have h3 : 0 < w := by omega
          simp [h3, List.getD_eq_getElem?_getD]
        · have h3 : ¬ i < bits.length + 1 := by omega
          have h4 : 0 < i - bits.length := by omega
          have h5 : i - bits.length < w := by omega
          have h6 : i - bits.length - 1 = i - (bits.length + 1) := by omega
          have h7 : i - bits.length ≠ 0 := by omega
          have h8 : i - (bits.length + 1) < w := by omega
          simp [h1, h3, h5, h6, h7, BitVec.getLsbD_ofBool, BitVec.getLsbD_eq_getElem h8]
    · simp [hw]

/-- The bits a value clocks, most significant first, counted from the last. -/
theorem msbFirst_reverse_getD {w : Nat} (v : BitVec w) (n i : Nat) (h : i < n) :
    (msbFirst v n).reverse.getD i false = v.getLsbD i := by
  induction n with
  | zero => omega
  | succ n ih =>
    rw [msbFirst, List.reverse_cons, List.getD_eq_getElem?_getD]
    by_cases hi : i < n
    · rw [List.getElem?_append_left (by simpa using hi), ← List.getD_eq_getElem?_getD, ih hi]
    · have : i = n := by omega
      subst this
      simp

/-- Clocking all bits of a value in gives the value back, whatever stood there before. -/
theorem shiftInBits_msbFirst {w : Nat} (a v : BitVec w) : shiftInBits a (msbFirst v w) = v := by
  apply BitVec.eq_of_getLsbD_eq
  intro i hi
  rw [shiftInBits_getLsbD]
  simp only [hi, decide_true, Bool.true_and, msbFirst_length, if_true]
  exact msbFirst_reverse_getD v w i hi

/-- Reading a value's bits back gives the value. -/
@[simp] theorem ofMsbFirst_msbFirst {w : Nat} (v : BitVec w) : ofMsbFirst w (msbFirst v w) = v :=
  shiftInBits_msbFirst 0 v

/-- The number that bits spell, most significant first. -/
def bitsValue (bits : List Bool) : Nat :=
  bits.foldl (fun n b => 2 * n + b.toNat) 0

theorem bitsValue_foldl (bits : List Bool) (n : Nat) :
    bits.foldl (fun n b => 2 * n + b.toNat) n = n * 2 ^ bits.length + bitsValue bits := by
  unfold bitsValue
  induction bits generalizing n with
  | nil => simp
  | cons b bits ih =>
    simp only [List.foldl_cons, List.length_cons]
    rw [ih, ih (2 * 0 + b.toNat)]
    ring

theorem bitsValue_cons (b : Bool) (bits : List Bool) :
    bitsValue (b :: bits) = b.toNat * 2 ^ bits.length + bitsValue bits := by
  have h := bitsValue_foldl bits (2 * 0 + b.toNat)
  simpa [bitsValue] using h

/-- One shift as arithmetic: double, add the bit, wrap (R106). -/
theorem shiftIn_toNat {w : Nat} (v : BitVec w) (b : Bool) :
    ((v <<< 1) ||| (BitVec.ofBool b).setWidth w).toNat = (2 * v.toNat + b.toNat) % 2 ^ w := by
  cases w with
  | zero => simp [Nat.mod_one]
  | succ w =>
    have hd : ((v <<< 1) &&& (BitVec.ofBool b).setWidth (w + 1)) = 0#(w + 1) := by
      apply BitVec.eq_of_getLsbD_eq
      intro i hi
      cases i with
      | zero => simp
      | succ i => simp
    rw [← BitVec.add_eq_or_of_and_eq_zero _ _ hd, BitVec.toNat_add, BitVec.toNat_shiftLeft]
    have hb : ((BitVec.ofBool b).setWidth (w + 1)).toNat = b.toNat := by
      have : b.toNat < 2 ^ (w + 1) := by
        have := Nat.one_le_two_pow (n := w)
        cases b <;> simp
      simp [Nat.mod_eq_of_lt this]
    rw [hb, Nat.shiftLeft_eq, Nat.mod_add_mod]
    congr 1
    omega

/-- The assembly of R79 as arithmetic. -/
theorem shiftInBits_toNat {w : Nat} (v : BitVec w) (bits : List Bool) :
    (shiftInBits v bits).toNat = (v.toNat * 2 ^ bits.length + bitsValue bits) % 2 ^ w := by
  induction bits generalizing v with
  | nil => simp [bitsValue, Nat.mod_eq_of_lt v.isLt]
  | cons b bits ih =>
    rw [shiftInBits_cons, ih, shiftIn_toNat, bitsValue_cons, List.length_cons, Nat.add_mod, Nat.mod_mul_mod,
      ← Nat.add_mod]
    congr 1
    ring

/-! ### Reading a frame back -/

/-- The decoder reads the clock words of a frame up to its deasserting edge. -/
theorem decodeFrameBody_clockWords (c : Channel) (acc bits : List Bool) :
    decodeFrameBody c acc (bits.map clockWord ++ [deassertWord c]) = .ok (classifyFrame c (acc.reverse ++ bits)) := by
  induction bits generalizing acc with
  | nil => simp [decodeFrameBody]
  | cons b bits ih => simp [decodeFrameBody, ih]

/-- The decoder reads a frame's words as the frame its bits classify to. -/
theorem decode_frameWords (c : Channel) (bits : List Bool) :
    decode (frameWords c bits) = .ok (classifyFrame c bits) := by
  have h := decodeFrameBody_clockWords c [] bits
  cases bits with
  | nil => simpa [frameWords, decode] using h
  | cons b bits => simpa [frameWords, decode] using h

end Sys2Proof
end

