-- ==== Sys2Proof/Laws/State.lean ====
section
/-! SUPPORT. One lemma per field per named update of State, true by rfl, and the read-after-write laws of PerChannel. -/

namespace Sys2Proof.Machine

variable {α : Type} (p : PerChannel α) (x : α) (c : Channel)

@[simp] theorem PerChannel.get_L : p.get .L = p.L := rfl
@[simp] theorem PerChannel.get_R : p.get .R = p.R := rfl
@[simp] theorem PerChannel.set_L : p.set .L x = { p with L := x } := rfl
@[simp] theorem PerChannel.set_R : p.set .R x = { p with R := x } := rfl

@[simp] theorem PerChannel.get_set_same : (p.set c x).get c = x := by
  cases c <;> rfl

@[simp] theorem PerChannel.get_set_other : (p.set c.other x).get c = p.get c := by
  cases c <;> rfl

@[simp] theorem PerChannel.get_other_set : (p.set c x).get c.other = p.get c.other := by
  cases c <;> rfl

theorem PerChannel.get_set_of_ne {c c' : Channel} (h : c' ≠ c) : (p.set c x).get c' = p.get c' := by
  cases c <;> cases c' <;> first | rfl | exact absurd rfl h

@[simp] theorem PerChannel.set_get : p.set c (p.get c) = p := by
  cases c <;> rfl

@[simp] theorem PerChannel.set_set (y : α) : (p.set c x).set c y = p.set c y := by
  cases c <;> rfl

/-- Two families are equal when they agree at each channel. -/
theorem PerChannel.ext_get {p q : PerChannel α} (h : ∀ c, p.get c = q.get c) : p = q := by
  cases p; cases q
  have hL := h .L
  have hR := h .R
  simp at hL hR
  simp [hL, hR]

variable (s : State)

section setCh
variable (d : ChannelDecoder)
@[simp] theorem State.setCh_ch : (s.setCh c d).ch = s.ch.set c d := rfl
@[simp] theorem State.setCh_snap : (s.setCh c d).snap = s.snap := rfl
@[simp] theorem State.setCh_time : (s.setCh c d).time = s.time := rfl
@[simp] theorem State.setCh_status : (s.setCh c d).status = s.status := rfl
@[simp] theorem State.setCh_input : (s.setCh c d).input = s.input := rfl
@[simp] theorem State.setCh_delivered : (s.setCh c d).delivered = s.delivered := rfl
end setCh

section setSnap
variable (k : Snapshot)
@[simp] theorem State.setSnap_ch : (s.setSnap c k).ch = s.ch := rfl
@[simp] theorem State.setSnap_snap : (s.setSnap c k).snap = s.snap.set c k := rfl
@[simp] theorem State.setSnap_time : (s.setSnap c k).time = s.time := rfl
@[simp] theorem State.setSnap_status : (s.setSnap c k).status = s.status := rfl
@[simp] theorem State.setSnap_input : (s.setSnap c k).input = s.input := rfl
@[simp] theorem State.setSnap_delivered : (s.setSnap c k).delivered = s.delivered := rfl
end setSnap

section setSink
variable (n : SinkName) (k : Sink)
@[simp] theorem State.setSink_ch : (s.setSink n k).ch = s.ch := by cases n <;> rfl
@[simp] theorem State.setSink_snap : (s.setSink n k).snap = s.snap := by cases n <;> rfl
@[simp] theorem State.setSink_input : (s.setSink n k).input = s.input := by cases n <;> rfl
@[simp] theorem State.setSink_delivered : (s.setSink n k).delivered = s.delivered := by cases n <;> rfl
@[simp] theorem State.setSink_time_time : (s.setSink .time k).time = k := rfl
@[simp] theorem State.setSink_time_status : (s.setSink .time k).status = s.status := rfl
@[simp] theorem State.setSink_status_status : (s.setSink .status k).status = k := rfl
@[simp] theorem State.setSink_status_time : (s.setSink .status k).time = s.time := rfl
@[simp] theorem State.sink_time : s.sink .time = s.time := rfl
@[simp] theorem State.sink_status : s.sink .status = s.status := rfl
@[simp] theorem State.sink_setSink : (s.setSink n k).sink n = k := by cases n <;> rfl
end setSink

end Sys2Proof.Machine
end

