-- ==== Sys2Proof/Laws/Ops.lean ====
section
/-! SUPPORT. What each shared operation of Machine/Ops.lean does, said once; later proofs cite these and do not unfold
the operation. -/

namespace Sys2Proof.Machine

/-! ### One decoder -/

section decoder
variable (x : ChannelDecoder) (d : Bool)

@[simp] theorem ChannelDecoder.assert_sel : x.assert.sel = true := rfl
@[simp] theorem ChannelDecoder.assert_sb : x.assert.sb = 0 := rfl
@[simp] theorem ChannelDecoder.assert_bc : x.assert.bc = 0 := rfl
@[simp] theorem ChannelDecoder.assert_ctrl : x.assert.ctrl = x.ctrl := rfl
@[simp] theorem ChannelDecoder.assert_disp : x.assert.disp = x.disp := rfl
@[simp] theorem ChannelDecoder.assert_nCtrl : x.assert.nCtrl = x.nCtrl := rfl
@[simp] theorem ChannelDecoder.assert_nDisp : x.assert.nDisp = x.nDisp := rfl

/-- The clock handler of a selected decoder (R106). -/
theorem ChannelDecoder.clock_of_sel (h : x.sel = true) :
    x.clock d = { x with sb := (x.sb <<< 1) ||| bitWord d, bc := x.bc + 1 } := by
  simp [ChannelDecoder.clock, h]

/-- The clock handler of a decoder that is not selected does nothing (R106). -/
theorem ChannelDecoder.clock_of_not_sel (h : x.sel = false) : x.clock d = x := by
  simp [ChannelDecoder.clock, h]

@[simp] theorem ChannelDecoder.clock_sel : (x.clock d).sel = x.sel := by
  unfold ChannelDecoder.clock; split <;> rfl
@[simp] theorem ChannelDecoder.clock_ctrl : (x.clock d).ctrl = x.ctrl := by
  unfold ChannelDecoder.clock; split <;> rfl
@[simp] theorem ChannelDecoder.clock_disp : (x.clock d).disp = x.disp := by
  unfold ChannelDecoder.clock; split <;> rfl
@[simp] theorem ChannelDecoder.clock_nCtrl : (x.clock d).nCtrl = x.nCtrl := by
  unfold ChannelDecoder.clock; split <;> rfl
@[simp] theorem ChannelDecoder.clock_nDisp : (x.clock d).nDisp = x.nDisp := by
  unfold ChannelDecoder.clock; split <;> rfl

/-- Everything a deassert can do (R102 to R105). -/
theorem ChannelDecoder.deassert_cases :
    (x.bc.toNat = 8 ∧ x.deassert = { x with sel := false, ctrl := controlValue x.sb, nCtrl := x.nCtrl + 1 }) ∨
    (x.bc.toNat = 24 ∧ x.deassert = { x with sel := false, disp := displayValue x.sb, nDisp := x.nDisp + 1 }) ∨
    (x.bc.toNat ≠ 8 ∧ x.bc.toNat ≠ 24 ∧ x.deassert = { x with sel := false }) := by
  unfold ChannelDecoder.deassert ChannelDecoder.settle frameKind
  by_cases h8 : x.bc.toNat = 8
  · left; exact ⟨h8, by simp [h8, ChannelDecoder.commitControl]⟩
  · by_cases h24 : x.bc.toNat = 24
    · right; left; exact ⟨h24, by simp [h24, ChannelDecoder.commitDisplay]⟩
    · right; right; exact ⟨h8, h24, by simp [h8, h24, ChannelDecoder.discard]⟩

@[simp] theorem ChannelDecoder.deassert_sel : x.deassert.sel = false := by
  rcases x.deassert_cases with ⟨-, h⟩ | ⟨-, h⟩ | ⟨-, -, h⟩ <;> simp [h]
@[simp] theorem ChannelDecoder.deassert_sb : x.deassert.sb = x.sb := by
  rcases x.deassert_cases with ⟨-, h⟩ | ⟨-, h⟩ | ⟨-, -, h⟩ <;> simp [h]
@[simp] theorem ChannelDecoder.deassert_bc : x.deassert.bc = x.bc := by
  rcases x.deassert_cases with ⟨-, h⟩ | ⟨-, h⟩ | ⟨-, -, h⟩ <;> simp [h]

/-- A deassert of a frame of length 8 (R103). -/
theorem ChannelDecoder.deassert_of_eight (h : x.bc.toNat = 8) :
    x.deassert = { x with sel := false, ctrl := controlValue x.sb, nCtrl := x.nCtrl + 1 } := by
  rcases x.deassert_cases with ⟨-, e⟩ | ⟨h', -⟩ | ⟨h', -⟩
  · exact e
  · omega
  · exact absurd h h'

/-- A deassert of a frame of length 24 (R104). -/
theorem ChannelDecoder.deassert_of_twentyFour (h : x.bc.toNat = 24) :
    x.deassert = { x with sel := false, disp := displayValue x.sb, nDisp := x.nDisp + 1 } := by
  rcases x.deassert_cases with ⟨h', -⟩ | ⟨-, e⟩ | ⟨-, h', -⟩
  · omega
  · exact e
  · exact absurd h h'

/-- A deassert of a frame of any other length (R105). -/
theorem ChannelDecoder.deassert_of_glitch (h8 : x.bc.toNat ≠ 8) (h24 : x.bc.toNat ≠ 24) :
    x.deassert = { x with sel := false } := by
  rcases x.deassert_cases with ⟨h', -⟩ | ⟨h', -⟩ | ⟨-, -, e⟩
  · exact absurd h' h8
  · exact absurd h' h24
  · exact e

end decoder

/-! ### Edge events -/

section edges
variable (s : State) (c c' : Channel) (d : Bool)

@[simp] theorem State.csAssert_ch : (s.csAssert c).ch = s.ch.set c (s.ch.get c).assert := rfl
@[simp] theorem State.csAssert_snap : (s.csAssert c).snap = s.snap := rfl
@[simp] theorem State.csAssert_time : (s.csAssert c).time = s.time := rfl
@[simp] theorem State.csAssert_status : (s.csAssert c).status = s.status := rfl
@[simp] theorem State.csAssert_input : (s.csAssert c).input = s.input := rfl
@[simp] theorem State.csAssert_delivered : (s.csAssert c).delivered = s.delivered := rfl

@[simp] theorem State.csDeassert_ch : (s.csDeassert c).ch = s.ch.set c (s.ch.get c).deassert := rfl
@[simp] theorem State.csDeassert_snap : (s.csDeassert c).snap = s.snap := rfl
@[simp] theorem State.csDeassert_time : (s.csDeassert c).time = s.time := rfl
@[simp] theorem State.csDeassert_status : (s.csDeassert c).status = s.status := rfl
@[simp] theorem State.csDeassert_input : (s.csDeassert c).input = s.input := rfl
@[simp] theorem State.csDeassert_delivered : (s.csDeassert c).delivered = s.delivered := rfl

@[simp] theorem State.sckRise_ch_get : (s.sckRise d).ch.get c = (s.ch.get c).clock d := by
  cases c <;> rfl
@[simp] theorem State.sckRise_snap : (s.sckRise d).snap = s.snap := rfl
@[simp] theorem State.sckRise_time : (s.sckRise d).time = s.time := rfl
@[simp] theorem State.sckRise_status : (s.sckRise d).status = s.status := rfl
@[simp] theorem State.sckRise_input : (s.sckRise d).input = s.input := rfl
@[simp] theorem State.sckRise_delivered : (s.sckRise d).delivered = s.delivered := rfl

end edges

/-! ### Clocks in a row, and frames -/

/-- A decoder after clock events in a row. -/
def ChannelDecoder.afterClocks (x : ChannelDecoder) (bits : List Bool) : ChannelDecoder :=
  if x.sel then
    { x with sb := shiftInBits x.sb bits, bc := x.bc + BitVec.ofNat Config.bcW bits.length }
  else x

theorem ChannelDecoder.afterClocks_cons (x : ChannelDecoder) (d : Bool) (bits : List Bool) :
    (x.clock d).afterClocks bits = x.afterClocks (d :: bits) := by
  unfold ChannelDecoder.afterClocks ChannelDecoder.clock
  by_cases h : x.sel = true
  · simp only [h, if_true, ChannelDecoder.mk.injEq, true_and, and_true]
    refine ⟨rfl, ?_⟩
    rw [BitVec.add_assoc]
    congr 1
    apply BitVec.eq_of_toNat_eq
    simp [Nat.add_comm]
  · simp [h]

theorem State.clocks_nil (s : State) : s.clocks [] = s := rfl

theorem State.clocks_cons (s : State) (d : Bool) (bits : List Bool) :
    s.clocks (d :: bits) = (s.sckRise d).clocks bits := rfl

theorem State.clocks_append (s : State) (a b : List Bool) : s.clocks (a ++ b) = (s.clocks a).clocks b := by
  simp [State.clocks]

/-- Everything a row of clock events does to a channel (R79, R106). -/
theorem State.clocks_ch_get (s : State) (c : Channel) (bits : List Bool) :
    (s.clocks bits).ch.get c = (s.ch.get c).afterClocks bits := by
  induction bits generalizing s with
  | nil =>
    simp only [State.clocks_nil, ChannelDecoder.afterClocks]
    split
    · simp [shiftInBits]
    · rfl
  | cons d bits ih => rw [State.clocks_cons, ih, State.sckRise_ch_get, ChannelDecoder.afterClocks_cons]

section clocksFrame
variable (s : State) (bits : List Bool)

/-- A row of clock events touches the channels only (R51, R219). -/
theorem State.clocks_poll :
    (s.clocks bits).snap = s.snap ∧ (s.clocks bits).time = s.time ∧ (s.clocks bits).status = s.status ∧
      (s.clocks bits).input = s.input ∧ (s.clocks bits).delivered = s.delivered := by
  induction bits generalizing s with
  | nil => exact ⟨rfl, rfl, rfl, rfl, rfl⟩
  | cons d bits ih => rw [State.clocks_cons]; exact ih (s.sckRise d)

@[simp] theorem State.clocks_snap : (s.clocks bits).snap = s.snap := (s.clocks_poll bits).1
@[simp] theorem State.clocks_time : (s.clocks bits).time = s.time := (s.clocks_poll bits).2.1
@[simp] theorem State.clocks_status : (s.clocks bits).status = s.status := (s.clocks_poll bits).2.2.1
@[simp] theorem State.clocks_input : (s.clocks bits).input = s.input := (s.clocks_poll bits).2.2.2.1
@[simp] theorem State.clocks_delivered : (s.clocks bits).delivered = s.delivered := (s.clocks_poll bits).2.2.2.2
end clocksFrame

section frame
variable (s : State) (c : Channel) (bits : List Bool)

@[simp] theorem State.frame_snap : (s.frame c bits).snap = s.snap := by simp [State.frame]
@[simp] theorem State.frame_time : (s.frame c bits).time = s.time := by simp [State.frame]
@[simp] theorem State.frame_status : (s.frame c bits).status = s.status := by simp [State.frame]
@[simp] theorem State.frame_input : (s.frame c bits).input = s.input := by simp [State.frame]
@[simp] theorem State.frame_delivered : (s.frame c bits).delivered = s.delivered := by simp [State.frame]

/-- A frame's effect on its own channel: the deassert of the assembled bits (R79, R102). -/
theorem State.frame_ch_get_self :
    (s.frame c bits).ch.get c = ((s.ch.get c).assert.afterClocks bits).deassert := by
  simp [State.frame, State.clocks_ch_get]

/-- A frame's effect on the other channel: the clock events alone (R62, R106). -/
theorem State.frame_ch_get_of_ne {c' : Channel} (h : c' ≠ c) :
    (s.frame c bits).ch.get c' = (s.ch.get c').afterClocks bits := by
  simp [State.frame, State.clocks_ch_get, PerChannel.get_set_of_ne _ _ h]

end frame

/-! ### Snapshot reads and publication -/

section reads
variable (s : State) (c : Channel)

@[simp] theorem State.readCtrl_ch : (s.readCtrl c).ch = s.ch := rfl
@[simp] theorem State.readCtrl_time : (s.readCtrl c).time = s.time := rfl
@[simp] theorem State.readCtrl_status : (s.readCtrl c).status = s.status := rfl
@[simp] theorem State.readCtrl_input : (s.readCtrl c).input = s.input := rfl
@[simp] theorem State.readCtrl_delivered : (s.readCtrl c).delivered = s.delivered := rfl
@[simp] theorem State.readCtrl_snap :
    (s.readCtrl c).snap = s.snap.set c { s.snap.get c with ctrl := (s.ch.get c).ctrl, ldCtrl := true } := rfl

@[simp] theorem State.readDisp_ch : (s.readDisp c).ch = s.ch := rfl
@[simp] theorem State.readDisp_time : (s.readDisp c).time = s.time := rfl
@[simp] theorem State.readDisp_status : (s.readDisp c).status = s.status := rfl
@[simp] theorem State.readDisp_input : (s.readDisp c).input = s.input := rfl
@[simp] theorem State.readDisp_delivered : (s.readDisp c).delivered = s.delivered := rfl
@[simp] theorem State.readDisp_snap :
    (s.readDisp c).snap = s.snap.set c { s.snap.get c with disp := (s.ch.get c).disp, ldDisp := true } := rfl

end reads

/-- Everything a publish can do to a sink (R201). -/
theorem Sink.publish_cases (k : Sink) (x : String) :
    (k.last = some x ∧ k.publish x = k) ∨
    (k.last ≠ some x ∧ k.publish x = { last := some x, out := k.out ++ [x] }) := by
  by_cases h : k.last = some x
  · exact .inl ⟨h, by simp [Sink.publish, h]⟩
  · exact .inr ⟨h, by simp [Sink.publish, Sink.emit, h]⟩

/-- After a publish the string is the last one published (R201). -/
@[simp] theorem Sink.publish_last (k : Sink) (x : String) : (k.publish x).last = some x := by
  rcases k.publish_cases x with ⟨h, e⟩ | ⟨-, e⟩ <;> rw [e]
  exact h

section publish
variable (s : State) (n : SinkName) (x : String)

@[simp] theorem State.publish_ch : (s.publish n x).ch = s.ch := by simp [State.publish]
@[simp] theorem State.publish_snap : (s.publish n x).snap = s.snap := by simp [State.publish]
@[simp] theorem State.publish_input : (s.publish n x).input = s.input := by simp [State.publish]
@[simp] theorem State.publish_delivered : (s.publish n x).delivered = s.delivered := by simp [State.publish]
@[simp] theorem State.publish_sink : (s.publish n x).sink n = (s.sink n).publish x := by simp [State.publish]
@[simp] theorem State.publish_time_status : (s.publish .time x).status = s.status := rfl
@[simp] theorem State.publish_status_time : (s.publish .status x).time = s.time := rfl

end publish

end Sys2Proof.Machine
end

