-- ==== Sys2Proof/Laws/Exec.lean ====
section
/-! SUPPORT. What exec and step can answer, said once. Proofs about every instruction start from `exec_next_cases` and
do not unfold exec. -/

namespace Sys2Proof.Machine

/-- Everything an operation that answers a next state can have done. -/
theorem exec_next_cases {i : Instr} {s t : State} (h : exec i s = .next t) :
    (∃ v, i = .sckRise v ∧ t = s.sckRise (dataBit v)) ∨
    (∃ c, i = .csAssert c ∧ t = s.csAssert c) ∨
    (∃ c, i = .csDeassert c ∧ t = s.csDeassert c) ∨
    (∃ c, i = .readCtrl c ∧ t = s.readCtrl c) ∨
    (∃ c, i = .readDisp c ∧ t = s.readDisp c) ∨
    (i = .publishTime ∧ timeLoaded s = true ∧ t = s.publish .time s.timeText) ∨
    (i = .publishStatus ∧ statusLoaded s = true ∧ t = s.publish .status s.statusText) ∨
    (∃ c lead value, i = .frameControl c lead value ∧ t = s.frame c (controlFrameBits lead value)) ∨
    (∃ c lead value, i = .frameDisplay c lead value ∧ t = s.frame c (displayFrameBits lead value)) ∨
    (∃ c bits, i = .frameDiscard c bits ∧ t = s.frame c bits) := by
  cases i with
  | sckRise v => cases h; exact .inl ⟨v, rfl, rfl⟩
  | csAssert c => cases h; exact .inr (.inl ⟨c, rfl, rfl⟩)
  | csDeassert c => cases h; exact .inr (.inr (.inl ⟨c, rfl, rfl⟩))
  | readCtrl c => cases h; exact .inr (.inr (.inr (.inl ⟨c, rfl, rfl⟩)))
  | readDisp c => cases h; exact .inr (.inr (.inr (.inr (.inl ⟨c, rfl, rfl⟩))))
  | publishTime =>
    simp only [exec, execPublishTime] at h
    split at h
    · cases h; exact .inr (.inr (.inr (.inr (.inr (.inl ⟨rfl, ‹_›, rfl⟩)))))
    · cases h
  | publishStatus =>
    simp only [exec, execPublishStatus] at h
    split at h
    · cases h; exact .inr (.inr (.inr (.inr (.inr (.inr (.inl ⟨rfl, ‹_›, rfl⟩))))))
    · cases h
  | reservedSckC1 v => cases h
  | reservedReadV1 k0 c => cases h
  | reservedPublishTimeV1 => cases h
  | reservedPublishTimeC1 v => cases h
  | reservedPublishStatusV1 => cases h
  | reservedPublishStatusC1 v => cases h
  | reservedK11x k0 c v => cases h
  | frameControl c lead value =>
    cases h; exact .inr (.inr (.inr (.inr (.inr (.inr (.inr (.inl ⟨c, lead, value, rfl, rfl⟩)))))))
  | frameDisplay c lead value =>
    cases h; exact .inr (.inr (.inr (.inr (.inr (.inr (.inr (.inr (.inl ⟨c, lead, value, rfl, rfl⟩))))))))
  | frameDiscard c bits =>
    cases h; exact .inr (.inr (.inr (.inr (.inr (.inr (.inr (.inr (.inr ⟨c, bits, rfl, rfl⟩))))))))

section take
variable (s : State) (rest : List EventWord)
@[simp] theorem State.take_ch : (s.take rest).ch = s.ch := rfl
@[simp] theorem State.take_snap : (s.take rest).snap = s.snap := rfl
@[simp] theorem State.take_time : (s.take rest).time = s.time := rfl
@[simp] theorem State.take_status : (s.take rest).status = s.status := rfl
@[simp] theorem State.take_input : (s.take rest).input = rest := rfl
@[simp] theorem State.take_delivered : (s.take rest).delivered = s.delivered + 1 := rfl
end take

/-- Everything a step can be: idle, or the delivered word's operation (R9). -/
theorem step_cases (s : State) :
    (s.input = [] ∧ step s = .next s) ∨
    (∃ w rest, s.input = w :: rest ∧ step s = exec (decodeWord w) (s.take rest)) := by
  unfold step handleNext
  split
  · exact .inl ⟨‹_›, rfl⟩
  · next w rest h => exact .inr ⟨w, rest, h, by simp [edgeLost, Config.lossyEdges]⟩

/-- What a delivered word does in a trace (R53, R212). -/
theorem feed_of_next {s t : State} {w : EventWord} (h : exec (decodeWord w) s = .next t) : feed s w = (t, none) := by
  simp [feed, h]

theorem feed_of_refused {s : State} {w : EventWord} {r : Refusal} (h : exec (decodeWord w) s = .refused r) :
    feed s w = (s, some r) := by
  simp [feed, h]

@[simp] theorem afterTrace_nil (s : State) : afterTrace s [] = s := rfl

theorem afterTrace_cons (s : State) (w : EventWord) (ws : List EventWord) :
    afterTrace s (w :: ws) = afterTrace (feed s w).1 ws := rfl

theorem afterTrace_append (s : State) (a b : List EventWord) :
    afterTrace s (a ++ b) = afterTrace (afterTrace s a) b := by
  induction a generalizing s with
  | nil => rfl
  | cons w a ih => simp only [List.cons_append, afterTrace_cons, ih]

end Sys2Proof.Machine
end

