-- ==== Sys2Proof/Laws/PerInstr.lean ====
section
/-! SUPPORT. Statements about every instruction as syntax, one lemma per constructor. -/

namespace Sys2Proof.Laws

/-- How many data bits an instruction's frame clocks; an event clocks none of its own. -/
def frameBitCount : Instr → Option Nat
  | .frameControl _ lead _ => some (lead.length + Config.ctrlLen)
  | .frameDisplay _ lead _ => some (lead.length + Config.dispLen)
  | .frameDiscard _ bits => some bits.length
  | .sckRise _ | .csAssert _ | .csDeassert _ | .readCtrl _ | .readDisp _ | .publishTime | .publishStatus
  | .reservedSckC1 _ | .reservedReadV1 _ _ | .reservedPublishTimeV1 | .reservedPublishTimeC1 _
  | .reservedPublishStatusV1 | .reservedPublishStatusC1 _ | .reservedK11x _ _ _ => none

/-- An event is one word; a frame is its two select edges and one word per data bit (R70, R75 to R77). -/
def EncodeLength.Statement (i : Instr) : Prop :=
  (encode i).length = match frameBitCount i with
    | some n => n + 2
    | none => 1

namespace EncodeLength

theorem sckRise (v : Level) : Statement (.sckRise v) := rfl
theorem csAssert (c : Channel) : Statement (.csAssert c) := rfl
theorem csDeassert (c : Channel) : Statement (.csDeassert c) := rfl
theorem readCtrl (c : Channel) : Statement (.readCtrl c) := rfl
theorem readDisp (c : Channel) : Statement (.readDisp c) := rfl
theorem publishTime : Statement .publishTime := rfl
theorem publishStatus : Statement .publishStatus := rfl
theorem reservedSckC1 (v : Level) : Statement (.reservedSckC1 v) := rfl
theorem reservedReadV1 (k0 : Bool) (c : Channel) : Statement (.reservedReadV1 k0 c) := rfl
theorem reservedPublishTimeV1 : Statement .reservedPublishTimeV1 := rfl
theorem reservedPublishTimeC1 (v : Level) : Statement (.reservedPublishTimeC1 v) := rfl
theorem reservedPublishStatusV1 : Statement .reservedPublishStatusV1 := rfl
theorem reservedPublishStatusC1 (v : Level) : Statement (.reservedPublishStatusC1 v) := rfl
theorem reservedK11x (k0 : Bool) (c : Channel) (v : Level) : Statement (.reservedK11x k0 c v) := rfl

theorem frameControl (c : Channel) (lead : List Bool) (value : CtrlWord) : Statement (.frameControl c lead value) := by
  simp [Statement, frameBitCount, encode, frameWords, controlFrameBits, Nat.add_assoc]

theorem frameDisplay (c : Channel) (lead : List Bool) (value : DispPayload) :
    Statement (.frameDisplay c lead value) := by
  simp [Statement, frameBitCount, encode, frameWords, displayFrameBits, Nat.add_assoc]

theorem frameDiscard (c : Channel) (bits : List Bool) : Statement (.frameDiscard c bits) := by
  simp [Statement, frameBitCount, encode, frameWords]

end EncodeLength

end Sys2Proof.Laws
end

