-- ==== Sys2Proof/Laws/Publication.lean ====
section
/-! SUPPORT. When the publish operations run and what they then do. -/

namespace Sys2Proof.Machine

variable (s : State)

theorem timeLoaded_iff : timeLoaded s = true ↔ s.snap.L.ldCtrl = true ∧ s.snap.L.ldDisp = true := by
  simp [timeLoaded]

theorem statusLoaded_iff :
    statusLoaded s = true ↔ s.snap.L.ldCtrl = true ∧ s.snap.L.ldDisp = true ∧ s.snap.R.ldDisp = true := by
  simp [statusLoaded, and_assoc]

/-- PUBLISH_TIME with its latches loaded (R202). -/
theorem execPublishTime_of_loaded (h : timeLoaded s = true) :
    exec .publishTime s = .next (s.publish .time s.timeText) :=
  if_pos h

/-- PUBLISH_TIME with a latch not loaded (R200). -/
theorem execPublishTime_of_not_loaded (h : ¬ timeLoaded s = true) :
    exec .publishTime s = .refused .snapshotNotLoaded :=
  if_neg h

/-- PUBLISH_STATUS with its latches loaded (R203). -/
theorem execPublishStatus_of_loaded (h : statusLoaded s = true) :
    exec .publishStatus s = .next (s.publish .status s.statusText) :=
  if_pos h

/-- PUBLISH_STATUS with a latch not loaded (R200). -/
theorem execPublishStatus_of_not_loaded (h : ¬ statusLoaded s = true) :
    exec .publishStatus s = .refused .snapshotNotLoaded :=
  if_neg h

/-- Publishing to TIME as a record update (R201). -/
theorem State.publish_time_eq (x : String) :
    s.publish .time x = if s.time.last = some x then s
      else { s with time := { last := some x, out := s.time.out ++ [x] } } := by
  rcases s.time.publish_cases x with ⟨h, e⟩ | ⟨h, e⟩
  · rw [if_pos h]; simp only [State.publish, State.sink_time, e]; rfl
  · rw [if_neg h]; simp only [State.publish, State.sink_time, e]; rfl

/-- Publishing to STATUS as a record update (R201). -/
theorem State.publish_status_eq (x : String) :
    s.publish .status x = if s.status.last = some x then s
      else { s with status := { last := some x, out := s.status.out ++ [x] } } := by
  rcases s.status.publish_cases x with ⟨h, e⟩ | ⟨h, e⟩
  · rw [if_pos h]; simp only [State.publish, State.sink_status, e]; rfl
  · rw [if_neg h]; simp only [State.publish, State.sink_status, e]; rfl

/-- What a word under a loss setting can come to (R214). -/
theorem handleNext_cases {s : State} {w : EventWord} {rest : List EventWord} (lossy : Bool) (h : s.input = w :: rest) :
    (edgeLost lossy s.delivered w = true ∧ handleNext lossy s = .next (s.take rest)) ∨
    (edgeLost lossy s.delivered w = false ∧ handleNext lossy s = exec (decodeWord w) (s.take rest)) := by
  cases hl : edgeLost lossy s.delivered w <;> simp [handleNext, h, hl]

end Sys2Proof.Machine
end

