-- ==== Sys2Proof/Laws/Safety.lean ====
section
/-! SUPPORT. The parts of the invariant that one operation touches. -/

namespace Sys2Proof.Machine

/-- A run whose first delivered word answers a next state goes on from there (R53). -/
theorem runSteps_succ_of_next {s t : State} {w : EventWord} {rest : List EventWord} (n : Nat)
    (h : s.input = w :: rest) (ht : exec (decodeWord w) (s.take rest) = .next t) :
    runSteps (n + 1) s = runSteps n t := by
  rcases step_cases s with ⟨h0, -⟩ | ⟨w', r, h1, h2⟩
  · rw [h0] at h; cases h
  · rw [h] at h1
    obtain ⟨rfl, rfl⟩ := List.cons.inj h1
    rw [runSteps, h2, ht]

/-- A sink that has published nothing is consistent. -/
theorem Sink.reset_consistent : Sink.reset.Consistent :=
  ⟨rfl, List.isChain_nil⟩

/-- Publishing keeps a sink consistent: a string equal to the last one is not emitted (R201). -/
theorem Sink.publish_consistent {k : Sink} (h : k.Consistent) (x : String) : (k.publish x).Consistent := by
  rcases k.publish_cases x with ⟨-, e⟩ | ⟨hne, e⟩
  · rw [e]; exact h
  · rw [e]
    refine ⟨by simp, List.IsChain.append h.no_repeat (List.isChain_singleton x) ?_⟩
    intro a ha b hb hab
    have hb' : x = b := by simpa using hb
    have ha' : k.last = some a := by rw [h.last_is_last]; exact ha
    exact hne (by rw [ha', hab, hb'])

/-- Latches that have not been read are consistent. -/
theorem Snapshot.reset_consistent : Snapshot.reset.Consistent :=
  ⟨fun _ => rfl, fun _ => rfl⟩

/-- What a publish puts out: what was there, and perhaps the string (R201). -/
theorem Sink.mem_publish_out {k : Sink} {x y : String} (h : y ∈ (k.publish x).out) : y ∈ k.out ∨ y = x := by
  rcases k.publish_cases x with ⟨-, e⟩ | ⟨-, e⟩
  · rw [e] at h; exact .inl h
  · rw [e] at h; simpa using h

end Sys2Proof.Machine
end

