-- ==== Sys2Proof/Tests/Slice0.lean ====
section
/-! SUPPORT. The model's own tests. Expected values come from spec/: the vectors V<n> and scenarios of
95_test_vectors.md, the examples of the rules, and words written out from 30_encoding.md. The last part shows, for each
statement that has hypotheses, a state and operands that meet them. -/

namespace Sys2Proof.Tests

open Sys2Proof Sys2Proof.Machine

set_option maxRecDepth 4000

/-! ### Well-formedness: the checks refuse what is ill formed -/

theorem test_wf_control_lead_must_wrap : (Instr.frameControl .L [true] 0xA5).wf = false := by decide
theorem test_wf_display_lead_must_wrap : (Instr.frameDisplay .R [true, false] 0x123456).wf = false := by decide
theorem test_wf_discard_not_eight : (Instr.frameDiscard .L (List.replicate 8 true)).wf = false := by decide
theorem test_wf_discard_not_twenty_four : (Instr.frameDiscard .L (List.replicate 24 false)).wf = false := by decide
theorem test_wf_discard_not_264 : (Instr.frameDiscard .L (List.replicate 264 true)).wf = false := by decide
theorem test_wf_clean_frames :
    (Instr.frameControl .L [] 0xA5).wf = true ∧ (Instr.frameDisplay .R [] 0x123456).wf = true ∧
      (Instr.frameDiscard .L []).wf = true := by decide

/-! ### Decoding: words written out bit by bit, `K[4:2] C[1] V[0]` (30_encoding.md R70 to R74) -/

theorem test_decode_sckRise : decodeWord 0b00001#5 = .sckRise .high := by decide
theorem test_decode_csAssert : decodeWord 0b00110#5 = .csAssert .R := by decide
theorem test_decode_csDeassert : decodeWord 0b00101#5 = .csDeassert .L := by decide
theorem test_decode_readCtrl : decodeWord 0b01010#5 = .readCtrl .R := by decide
theorem test_decode_readDisp : decodeWord 0b01100#5 = .readDisp .L := by decide
theorem test_decode_publishTime : decodeWord 0b10000#5 = .publishTime := by decide
theorem test_decode_publishStatus : decodeWord 0b10100#5 = .publishStatus := by decide
theorem test_decode_reservedSckC1 : decodeWord 0b00010#5 = .reservedSckC1 .low := by decide
theorem test_decode_reservedReadV1 :
    decodeWord 0b01001#5 = .reservedReadV1 false .L ∧ decodeWord 0b01111#5 = .reservedReadV1 true .R := by decide
theorem test_decode_reservedPublishTimeV1 : decodeWord 0b10001#5 = .reservedPublishTimeV1 := by decide
theorem test_decode_reservedPublishTimeC1 : decodeWord 0b10011#5 = .reservedPublishTimeC1 .high := by decide
theorem test_decode_reservedPublishStatusV1 : decodeWord 0b10101#5 = .reservedPublishStatusV1 := by decide
theorem test_decode_reservedPublishStatusC1 : decodeWord 0b10110#5 = .reservedPublishStatusC1 .low := by decide
theorem test_decode_reservedK11x :
    decodeWord 0b11000#5 = .reservedK11x false .L .low ∧ decodeWord 0b11110#5 = .reservedK11x true .R .low := by decide

/-- `CTRL L, 0x4D`: the words of program P1's first line. -/
theorem test_decode_frameControl :
    decode [0x04, 0x00, 0x01, 0x00, 0x00, 0x01, 0x01, 0x00, 0x01, 0x05] = .ok (.frameControl .L [] 0x4D) := by decide

/-- `DISP R, 0x042100`: the words of program P2's line for the right channel. -/
theorem test_decode_frameDisplay :
    decode [0x06, 0x00, 0x00, 0x00, 0x00, 0x00, 0x01, 0x00, 0x00, 0x00, 0x00, 0x01, 0x00, 0x00, 0x00, 0x00, 0x01, 0x00,
      0x00, 0x00, 0x00, 0x00, 0x00, 0x00, 0x00, 0x07] = .ok (.frameDisplay .R [] 0x042100) := by decide

/-- The five-clock glitch of program P2. -/
theorem test_decode_frameDiscard :
    decode [0x04, 0x01, 0x01, 0x01, 0x01, 0x01, 0x05] = .ok (.frameDiscard .L (List.replicate 5 true)) := by decide

theorem test_decode_rejects_by_name :
    decode [] = .error .empty ∧ decode [0x01, 0x05] = .error (.notAFrameStart 0x01) ∧
      decode [0x04, 0x07] = .error (.foreignEvent 0x07) ∧ decode [0x04, 0x01] = .error .unfinishedFrame ∧
      decode [0x04, 0x05, 0x05] = .error (.trailingWords [0x05]) := by decide

theorem test_table_word :
    decodeTableWord 8 0x06 = some (.csAssert .R) ∧ decodeTableWord 8 0xA5 = some (.frameControl .L [] 0xA5) ∧
      decodeTableWord 24 0x123456 = some (.frameDisplay .L [] 0x123456) ∧
      decodeTableWord 7 0x55 = some (.frameDiscard .L [true, false, true, false, true, false, true]) := by decide

/-- 30_encoding.md R81, R82: `CTRL L, 0x4D` and `TICK` assemble to program P1's words. -/
theorem test_assemble :
    assemble (traceCtrl .L 0x4D) = [0x04, 0x00, 0x01, 0x00, 0x00, 0x01, 0x01, 0x00, 0x01, 0x05] ∧
      assemble traceTick = [0x08, 0x0C, 0x10, 0x08, 0x0C, 0x0E, 0x14] := by decide

/-! ### One operation on a small state -/

/-- Reset, with the left decoder given. -/
def leftState (x : ChannelDecoder) : State :=
  State.reset.setCh .L x

/-- Reset, with all latches loaded and holding these values. -/
def loaded (lc : CtrlWord) (ld rd : DispWord) : State :=
  { State.reset with
    snap := { L := { ctrl := lc, disp := ld, ldCtrl := true, ldDisp := true }
              R := { ctrl := 0, disp := rd, ldCtrl := false, ldDisp := true } } }

/-- A fact about the next state; false where there is none. -/
def nextHas (r : Result) (p : State → Bool) : Bool :=
  match r with
  | .next s => p s
  | .fault _ => false
  | .refused _ => false

/-- The reason of a refusal. -/
def refusal? : Result → Option Refusal
  | .next _ => none
  | .fault _ => none
  | .refused r => some r

/-- V16 and V17: the bit enters at bit 0, bit 31 is lost. -/
theorem test_sckRise_shifts :
    nextHas (exec (.sckRise .high) (leftState { ChannelDecoder.reset with sel := true, sb := 0x5, bc := 3 }))
      (fun t => t.ch.L.sb == 0xB && t.ch.L.bc == 4 && t.ch.R == .reset) = true ∧
    nextHas (exec (.sckRise .low) (leftState { ChannelDecoder.reset with sel := true, sb := 0x80000000, bc := 40 }))
      (fun t => t.ch.L.sb == 0 && t.ch.L.bc == 41) = true := by decide

/-- V18: the count wraps from 255 to 0. -/
theorem test_sckRise_count_wraps :
    nextHas (exec (.sckRise .high) (leftState { ChannelDecoder.reset with sel := true, bc := 255 }))
      (fun t => t.ch.L.bc == 0 && t.ch.L.sb == 1) = true := by decide

/-- R101's example. -/
theorem test_csAssert_clears :
    nextHas (exec (.csAssert .L) (leftState { ChannelDecoder.reset with sb := 0x1F, bc := 5, ctrl := 0x11, disp := 7 }))
      (fun t => t.ch.L == { ChannelDecoder.reset with sel := true, ctrl := 0x11, disp := 7 }) = true := by decide

/-- R102's example: a display commit. -/
theorem test_csDeassert_commits_display :
    nextHas (exec (.csDeassert .R)
        (State.reset.setCh .R { ChannelDecoder.reset with sel := true, sb := 0x00042100, bc := 24 }))
      (fun t => t.ch.R.disp == 0x00042100 && t.ch.R.nDisp == 1 && t.ch.R.sel == false && t.ch.R.ctrl == 0) = true := by
  decide

/-- The end of V8: length 8 commits the low eight bits only. -/
theorem test_csDeassert_commits_control :
    nextHas (exec (.csDeassert .L) (leftState { ChannelDecoder.reset with sel := true, sb := 0xFFFFFFFF, bc := 8 }))
      (fun t => t.ch.L.ctrl == 0xFF && t.ch.L.nCtrl == 1 && t.ch.L.disp == 0 && t.ch.L.nDisp == 0) = true := by decide

/-- V24: a frame in progress is invisible to the read. -/
theorem test_readCtrl_latches :
    nextHas (exec (.readCtrl .L) (leftState { ChannelDecoder.reset with sel := true, sb := 7, bc := 3, ctrl := 0x11 }))
      (fun t => t.snap.L.ctrl == 0x11 && t.snap.L.ldCtrl && !t.snap.L.ldDisp && t.snap.R == .reset) = true := by decide

/-- V22. -/
theorem test_readDisp_latches :
    nextHas (exec (.readDisp .R) (State.reset.setCh .R { ChannelDecoder.reset with disp := 0x00042100 }))
      (fun t => t.snap.R.disp == 0x00042100 && t.snap.R.ldDisp && t.snap.L == .reset) = true := by decide

/-- Scenario B; V29 where nothing was read. -/
theorem test_publishTime_emits :
    nextHas (exec .publishTime (loaded 0x01 0x130 0)) (fun t => t.time.out == ["1h 30m"]) = true ∧
      refusal? (exec .publishTime State.reset) = some .snapshotNotLoaded := by decide

/-- V88: the string last published is not emitted again. -/
theorem test_publishTime_deduplicates :
    nextHas (exec .publishTime { loaded 0x00 0 0 with time := { last := some " ", out := [" "] } })
      (fun t => t.time.out == [" "]) = true := by decide

/-- Scenario E. -/
theorem test_publishStatus_emits :
    nextHas (exec .publishStatus (loaded 0x01 0x130 0x042100))
      (fun t => t.status.out == ["Washing, Ø 1400, Pre-wash"] && t.time.out == []) = true := by decide

/-- V30: the right display latch is not loaded. -/
theorem test_publishStatus_refused :
    refusal? (exec .publishStatus ((State.reset.readCtrl .L).readDisp .L)) = some .snapshotNotLoaded := by decide

/-- V25 to V28 and P6: refused words change nothing, and the trace goes on. -/
theorem test_reserved_words_refused :
    runTrace State.reset [0x14, 0x1F, 0x02, 0x09, 0x11, 0x13, 0x15, 0x17, 0x18] =
      (State.reset, [.snapshotNotLoaded, .reservedEvent, .reservedEvent, .reservedEvent, .reservedEvent, .reservedEvent,
        .reservedEvent, .reservedEvent, .reservedEvent]) := by decide

/-- V1 and V8. -/
theorem test_frameControl_commits :
    nextHas (exec (.frameControl .L [] 0xA5) State.reset)
      (fun t => t.ch.L == { ChannelDecoder.reset with sb := 0xA5, bc := 8, ctrl := 0xA5, nCtrl := 1 }) = true ∧
    nextHas (exec (.frameControl .L (List.replicate 256 true) 0xFF) State.reset)
      (fun t => t.ch.L == { ChannelDecoder.reset with sb := 0xFFFFFFFF, bc := 8, ctrl := 0xFF, nCtrl := 1 }) = true := by
  decide

/-- V2 and V9. -/
theorem test_frameDisplay_commits :
    nextHas (exec (.frameDisplay .L [] 0x123456) State.reset)
      (fun t => t.ch.L == { ChannelDecoder.reset with sb := 0x123456, bc := 24, disp := 0x123456, nDisp := 1 }) = true ∧
    nextHas (exec (.frameDisplay .L (List.replicate 256 true) 0) State.reset)
      (fun t => t.ch.L == { ChannelDecoder.reset with sb := 0xFF000000, bc := 24, disp := 0xFF000000, nDisp := 1 }) =
        true := by decide

/-- V3. -/
theorem test_frameDiscard_commits_nothing :
    nextHas (exec (.frameDiscard .L (msbFirst (0x55 : BitVec 7) 7)) State.reset)
      (fun t => t.ch.L == { ChannelDecoder.reset with sb := 0x55, bc := 7 }) = true := by decide

/-! ### Glyphs, formatters, bytes, lines -/

/-- V38 to V43. -/
theorem test_mode_select :
    (special .all 0 0x4D, special .all 1 0x4D, special .all 2 0x4D) = (false, true, true) ∧
      (special .any 0 0x4D, special .any 1 0x0F, special .any 2 0x41) = (true, true, true) ∧
      glyphs .all 0x0F 0x123 = ('1', '2', '3') ∧ glyphs .any 0x0F 0x123 = ('c', 'H', 'h') ∧
      glyphs .all 0x4F 0x777 = ('o', 'o', 'o') := by decide

/-- V45 to V57 and Scenarios C and D. -/
theorem test_formatTime :
    [formatTime .all 0x4C 0x130, formatTime .all 0x4F 0x000, formatTime .all 0x4B 0x000, formatTime .all 0x4F 0x0DD,
      formatTime .all 0x4D 0x001, formatTime .all 0x4D 0x105, formatTime .all 0x4D 0x010, formatTime .all 0x01 0xABC,
      formatTime .all 0x45 0x050, formatTime .all 0x01 0x00D, formatTime .all 0x49 0x045] =
    [" ", " ", " ", "---", "1 min", "ch 5m", "c0 min", "Ah BCm", "0h L0m", "0h 0Dm", "45 min"] := by decide

/-- V61, V64, V65, V67 to V69. -/
theorem test_formatState_progress :
    [formatState .all 0x01 0x130 0x008000, formatState .all 0x01 0x130 0x000004, formatState .all 0x4D 0 0x000004,
      formatState .all 0x01 0x130 0x000008, formatState .all 0x01 0x130 0x000003, formatState .all 0x01 0x130 0x001001] =
    ["Paused Rinse", "Idle", "Finished", "Ready", "", ""] := by decide

/-- V73, V75 to V81, V83 to V85. -/
theorem test_formatState_spin_and_options :
    [formatState .all 0x01 0x130 0x500000, formatState .all 0x01 0x130 0x300000, formatState .all 0x01 0x130 0x200000,
      formatState .all 0x01 0x130 0x7E0000, formatState .all 0x01 0x130 0x800000, formatState .all 0x01 0x130 0x0101C0,
      formatState .all 0x00 0 0x000100, formatState .all 0x43 0x00D 0x042100] =
    ["Ready, Ø 900", "Ready, Ø 400", "Ready, Ø Rinse-pause", "Ready", "Ready",
      "Ready, Pre-wash, Short, Wasser Plus, Summer", "Door open, Pre-wash", "Fault, Pre-wash"] := by decide

/-- 45_publication.md R204: "Ø" is the bytes 0xC3 0x98. -/
theorem test_sink_bytes : sinkBytes "Ø 900" = [0xC3, 0x98, 0x20, 0x39, 0x30, 0x30] := by decide

/-- 42_bus_monitor.md R152 and 30_encoding.md R83: a select edge carries the level read; a falling clock edge is no event. -/
theorem test_line_edges :
    eventsOfEdges [({ sck := .low, data := .low, csL := .low, csR := .high }, .cs .L),
      ({ sck := .high, data := .high, csL := .low, csR := .high }, .sck .rising),
      ({ sck := .low, data := .high, csL := .low, csR := .high }, .sck .falling),
      ({ sck := .low, data := .low, csL := .high, csR := .high }, .cs .L)] = [0x04, 0x01, 0x05] := by decide

/-- The host's placing: the word's operation runs as the first step after reset. -/
theorem test_placed_word_runs :
    nextHas (step (State.reset.withFetchWord 8 0x06)) (fun t => t.ch.R.sel && !t.ch.L.sel) = true ∧
      refusal? (step (State.reset.withFetchWord 8 0x1F)) = some .reservedEvent := by decide

/-! ### Witnesses: each statement's hypotheses can be met -/

/-- A decoder with a count given and values in every other field. -/
def midFrame (bc : BitCount) : ChannelDecoder :=
  { sel := true, sb := 0x1234A5, bc := bc, ctrl := 0x4D, disp := 0x130, nCtrl := 3, nDisp := 0xFFFFFFFF }

theorem witness_StepRunsTheDeliveredWord :
    ({ State.reset with input := [0x04, 0x01] } : State).input = 0x04#5 :: [0x01#5] := rfl

theorem witness_StepIdlesWithoutAnEvent : (leftState (midFrame 3)).input = [] := rfl

theorem witness_PlacedEventWordRunsNext : 31 < 32 ∧ decodeTableWord 8 31 = some (.reservedK11x true .R .high) := by
  decide

theorem witness_DecodeOfEncodeIsTheInstruction :
    (Instr.frameDisplay .R (List.replicate 256 true) 0xFFFFFF).WellFormed ∧ (Instr.frameDiscard .L []).WellFormed ∧
      (Instr.frameControl .L (List.replicate 512 false) 0x80).WellFormed := by decide

theorem witness_EncodeOfDecodeIsTheWords : decode [0x06, 0x01, 0x07] = .ok (.frameDiscard .R [true]) := by decide

theorem witness_DeassertAtEightCommitsControl : ((leftState (midFrame 8)).ch.get .L).bc.toNat = 8 := rfl

theorem witness_DeassertAtTwentyFourCommitsDisplay : ((leftState (midFrame 24)).ch.get .L).bc.toNat = 24 := rfl

/-- The counts on either side of 8 and 24, and the ends of the range. -/
theorem witness_DeassertAtAnyOtherLengthDiscards :
    ∀ n ∈ [(0 : BitCount), 7, 9, 23, 25, 255],
      ((leftState (midFrame n)).ch.get .L).bc.toNat ≠ 8 ∧ ((leftState (midFrame n)).ch.get .L).bc.toNat ≠ 24 := by
  decide

theorem witness_ClockShiftsTheSelectedChannels :
    ((leftState (midFrame 255)).ch.get .L).sel = true ∧ ((leftState (midFrame 255)).ch.get .R).sel = false :=
  ⟨rfl, rfl⟩

theorem witness_FrameUnderwayAtStartIsLost :
    ((leftState { midFrame 0 with sel := false }).ch.get .L).sel = false ∧
      ((leftState { midFrame 0 with sel := false }).ch.get .L).bc = 0 := ⟨rfl, rfl⟩

theorem witness_CoincidentEdgesDependOnTheirOrder : ((leftState (midFrame 7)).ch.get .L).sel = true := rfl

theorem witness_ControlFrameWritesItsValue :
    (Instr.frameControl .L [] 0x00).WellFormed ∧ (Instr.frameControl .R (List.replicate 256 true) 0xFF).WellFormed := by
  decide

theorem witness_DisplayFrameWritesItsValue :
    (Instr.frameDisplay .L [] 0).WellFormed ∧ (Instr.frameDisplay .R (List.replicate 256 true) 0xFFFFFF).WellFormed := by
  decide

theorem witness_DiscardedFrameChangesNoRegister :
    ∀ n ∈ [0, 7, 9, 23, 25, 255, 256], (Instr.frameDiscard .L (List.replicate n true)).WellFormed := by decide

theorem witness_ControlFrameBitOrder :
    (List.replicate 8 true).length % 256 = 8 ∧ (List.replicate 264 true).length % 256 = 8 ∧ 0 < 8 ∧ 7 < 8 := by decide

theorem witness_DisplayFrameBitOrder :
    (List.replicate 24 true).length = 24 ∧ (List.replicate 280 true).length % 256 = 24 ∧ 0 < 24 ∧ 23 < 24 := by decide

theorem witness_FrameIsTheRunOfItsWords :
    encode (.frameControl .L [] 0xA5) = frameWords .L (controlFrameBits [] 0xA5) ∧
      ({ State.reset with input := encode (.frameControl .L [] 0xA5) ++ [0x08] } : State).input =
        encode (.frameControl .L [] 0xA5) ++ [0x08#5] := ⟨rfl, rfl⟩

/-- A deassert and a frame that change each register. -/
theorem witness_RegistersChangeOnlyByCommits :
    nextHas (exec (.csDeassert .L) (leftState (midFrame 8)))
      (fun t => t.ch.L.ctrl != (midFrame 8).ctrl && t.ch.L.nCtrl != (midFrame 8).nCtrl) = true ∧
    nextHas (exec (.frameDisplay .L [] 1) (leftState (midFrame 0)))
      (fun t => t.ch.L.disp != (midFrame 0).disp && t.ch.L.nDisp != (midFrame 0).nDisp) = true := by decide

theorem witness_RegistersHoldBetweenDeasserts :
    ∀ w ∈ [0x04#5, 0x01#5, 0x07#5, 0x08#5, 0x1F#5], decodeWord w ≠ .csDeassert .L := by decide

/-- Two states that agree on the left channel only. -/
theorem witness_ChannelsAreIndependent :
    (leftState (midFrame 3)).ch.get .L = ((leftState (midFrame 3)).setCh .R (midFrame 9)).ch.get .L ∧
      leftState (midFrame 3) ≠ (leftState (midFrame 3)).setCh .R (midFrame 9) := by decide

/-- Each clause has its operation, and the two states differ in what the clause leaves open. -/
theorem witness_ContextsKeepToTheirOwnState :
    contextOf (.readCtrl .L) = some .polling ∧
    nextHas (exec (.readCtrl .L) (leftState (midFrame 3))) (fun _ => true) = true ∧
    contextOf (.csDeassert .L) = some .interrupt ∧
    (loaded 0x01 0x130 0).ch = State.reset.ch ∧ loaded 0x01 0x130 0 ≠ State.reset ∧
    ((loaded 0x01 0x130 0).setCh .L (midFrame 3)).snap = (loaded 0x01 0x130 0).snap ∧
    nextHas (exec .publishTime (loaded 0x01 0x130 0)) (fun _ => true) = true ∧
    refusal? (exec .publishStatus (leftState (midFrame 3))) = some .snapshotNotLoaded := by decide

theorem witness_ValidWordsNeverBlock :
    contextOf (decodeWord 0x10) ≠ none ∧ timeLoaded (loaded 0 0 0) = true ∧
      contextOf (decodeWord 0x14) ≠ none ∧ statusLoaded (loaded 0 0 0) = true ∧
      contextOf (decodeWord 0x00) ≠ none ∧ contextOf (decodeWord 0x0E) ≠ none := by decide

theorem witness_ReservedWords :
    ∀ w ∈ [0x02#5, 0x0F#5, 0x11#5, 0x17#5, 0x18#5, 0x1F#5],
      refusal? (exec (decodeWord w) (loaded 0 0 0)) = some .reservedEvent := by decide

theorem witness_RefusedWordsLeaveNoMark : contextOf (decodeWord 0x03) = none ∧ contextOf (decodeWord 0x1F) = none := by
  decide

/-- An edge word and a poll word at the head of `input`. -/
theorem witness_OnlyEdgesCanBeLost :
    ({ State.reset with input := [0x01] } : State).input = 0x01#5 :: [] ∧
      contextOf (decodeWord 0x01) = some .interrupt ∧ contextOf (decodeWord 0x08) ≠ some .interrupt := by decide

theorem witness_TornReadPairsOldAndNew :
    ∀ w ∈ assemble (traceCtrl .L 0x43 ++ traceDisp .L 0x00D), contextOf (decodeWord w) = some .interrupt := by decide

theorem witness_LatchKeepsTheMostRecentRead :
    (∀ w ∈ [0x04#5, 0x0C#5, 0x0A#5], decodeWord w ≠ .readCtrl .L) ∧
      (∀ w ∈ [0x05#5, 0x08#5, 0x0E#5], decodeWord w ≠ .readDisp .L) := by decide

/-- Loaded for the time, not for the status: the latch that is missing is the right one. -/
theorem witness_PublishEmitsTheFormat :
    ((loaded 0 0 0).snap.L.ldCtrl = true ∧ (loaded 0 0 0).snap.L.ldDisp = true ∧
      (loaded 0 0 0).snap.R.ldDisp = true) ∧
    ¬ (State.reset.snap.L.ldCtrl = true ∧ State.reset.snap.L.ldDisp = true) ∧
    ((State.reset.readCtrl .L).readDisp .L).snap.R.ldDisp = false := by decide

theorem witness_RepublishWithoutReadEmitsNothing :
    timeLoaded (loaded 0x01 0x130 0) = true ∧ statusLoaded (loaded 0x01 0x130 0) = true ∧
      ∀ w ∈ assemble (traceCtrl .L 0x43), contextOf (decodeWord w) = some .interrupt := by decide

/-- The glyph classes of each branch of the time. -/
theorem witness_TimeByItsGlyphs :
    glyph .all 0 0x43 0x00D = '-' ∧ glyph .all 0 0x4F 0 = ' ' ∧ glyphs .all 0x49 0x045 = (' ', '4', '5') ∧
      glyphs .all 0x4D 0x105 = ('c', ' ', '5') ∧ glyphs .any 0x40 0x00D = (' ', ' ', '-') := by decide

/-- Two register triples that differ only in bits the formatters do not read. -/
theorem witness_FormattersReadOnlyTheirBits :
    (∀ k, k ∈ [0, 1, 2, 3, 6] → (0xB0 : CtrlWord).getLsbD k = (0x00 : CtrlWord).getLsbD k) ∧
    (∀ k, k < 12 → (0xFFFFF130 : DispWord).getLsbD k = (0x130 : DispWord).getLsbD k) ∧
    (∀ k, k ≤ 22 → (k ≤ 2 ∨ (6 ≤ k ∧ k ≤ 8) ∨ (12 ≤ k ∧ k ≤ 22)) →
      (0xFF800E38 : DispWord).getLsbD k = (0x0 : DispWord).getLsbD k) := by decide

/-- A state with strings already published that has the invariant. -/
def publishedState : State :=
  { loaded 0x01 0x130 0x042100 with
    time := { last := some "1h 30m", out := [" ", "1h 30m"] }
    input := [0x10] }

theorem publishedState_inv : publishedState.Inv where
  snap := fun c => by cases c <;> exact ⟨by decide, by decide⟩
  sink := fun n => by
    cases n with
    | time => exact ⟨by decide, by simp [publishedState]⟩
    | status => exact Sink.reset_consistent
  time_loaded := fun _ => by decide
  status_loaded := fun h => absurd rfl h
  time_formatted := fun x hx => by
    have : x = " " ∨ x = "1h 30m" := by simpa [publishedState] using hx
    rcases this with rfl | rfl
    · exact ⟨0x00, 0x000, by decide⟩
    · exact ⟨0x01, 0x130, by decide⟩
  status_formatted := fun x hx => by cases hx

theorem witness_StepKeepsTheInvariant :
    publishedState.Inv ∧ nextHas (step publishedState) (fun t => t.input == []) = true :=
  ⟨publishedState_inv, by decide⟩

theorem witness_ReachableStatesMeetTheInvariant : Reachable { State.reset with input := [0x06] } :=
  .deliver 0x06 .reset

/-- Two states that differ in the right control register, its latch and the counters. -/
theorem witness_CountersAndRightControlReachNoOutput :
    let s := (loaded 0x01 0x130 0).setCh .R (midFrame 3)
    let s' := { s with ch := { s.ch with R := { midFrame 3 with ctrl := 0x7F, nCtrl := 9, nDisp := 0 } }
                       snap := { s.snap with R := { s.snap.R with ctrl := 0x33 } } }
    (∀ c, ∃ ctrl nCtrl nDisp, s'.ch.get c = { s.ch.get c with ctrl := ctrl, nCtrl := nCtrl, nDisp := nDisp }) ∧
      s'.ch.L.ctrl = s.ch.L.ctrl ∧ s'.snap.L = s.snap.L ∧ (∃ ctrl, s'.snap.R = { s.snap.R with ctrl := ctrl }) ∧
      s'.time = s.time ∧ s'.status = s.status := by
  refine ⟨fun c => ?_, rfl, rfl, ⟨0x33, rfl⟩, rfl, rfl⟩
  cases c with
  | L => exact ⟨0, 0, 0, rfl⟩
  | R => exact ⟨0x7F, 9, 0, rfl⟩

end Sys2Proof.Tests
end

/-! PROOFS of 00_scope.md. What an operation can answer, read off its execution context (R219): an interrupt handler
completes in every state, an operation with no context is refused as reserved, and of the polling agent's operations
only a publish can be refused. -/

namespace Sys2Proof.Machine

/-- An interrupt handler completes in every state (R112). -/
theorem exec_next_of_interrupt {i : Instr} (h : contextOf i = some .interrupt) (s : State) :
    ∃ t, exec i s = .next t := by
  cases i <;> cases h <;> exact ⟨_, rfl⟩

/-- An operation that belongs to no context is a reserved word's, and is refused (R74). -/
theorem exec_refused_of_noContext {i : Instr} (h : contextOf i = none) (s : State) :
    exec i s = .refused .reservedEvent := by
  cases i <;> cases h <;> rfl

/-- The polling agent's operations: the two snapshot reads and the two publishes. -/
theorem polling_cases {i : Instr} (h : contextOf i = some .polling) :
    (∃ c, i = .readCtrl c) ∨ (∃ c, i = .readDisp c) ∨ i = .publishTime ∨ i = .publishStatus := by
  cases i <;> cases h <;> simp

/-- A polling operation completes, or is a publish with a latch that was not read (R108, R109, R200). -/
theorem exec_of_polling {i : Instr} (h : contextOf i = some .polling) (s : State) :
    (∃ t, exec i s = .next t) ∨
    (exec i s = .refused .snapshotNotLoaded ∧
      ((i = .publishTime ∧ timeLoaded s = false) ∨ (i = .publishStatus ∧ statusLoaded s = false))) := by
  obtain ⟨c, rfl⟩ | ⟨c, rfl⟩ | rfl | rfl := polling_cases h
  · exact .inl ⟨s.readCtrl c, rfl⟩
  · exact .inl ⟨s.readDisp c, rfl⟩
  · by_cases hl : timeLoaded s = true
    · exact .inl ⟨_, execPublishTime_of_loaded s hl⟩
    · exact .inr ⟨execPublishTime_of_not_loaded s hl, .inl ⟨rfl, Bool.eq_false_of_not_eq_true hl⟩⟩
  · by_cases hl : statusLoaded s = true
    · exact .inl ⟨_, execPublishStatus_of_loaded s hl⟩
    · exact .inr ⟨execPublishStatus_of_not_loaded s hl, .inr ⟨rfl, Bool.eq_false_of_not_eq_true hl⟩⟩

/-- Every answer an operation can give, with the cause of each refusal (R212). -/
theorem exec_answer (i : Instr) (s : State) :
    (∃ t, exec i s = .next t) ∨
    (exec i s = .refused .reservedEvent ∧ contextOf i = none) ∨
    (exec i s = .refused .snapshotNotLoaded ∧
      ((i = .publishTime ∧ timeLoaded s = false) ∨ (i = .publishStatus ∧ statusLoaded s = false))) := by
  match hc : contextOf i with
  | none => exact .inr (.inl ⟨exec_refused_of_noContext hc s, rfl⟩)
  | some .interrupt => exact .inl (exec_next_of_interrupt hc s)
  | some .polling => exact (exec_of_polling hc s).imp_right .inr

/-- Every answer a step can give: it idles, or answers as the delivered word's operation does (R9). -/
theorem step_answer (s : State) :
    (∃ t, step s = .next t) ∨ step s = .refused .reservedEvent ∨ step s = .refused .snapshotNotLoaded := by
  obtain ⟨-, hidle⟩ | ⟨w, rest, -, hrun⟩ := step_cases s
  · exact .inl ⟨s, hidle⟩
  · rw [hrun]
    exact (exec_answer (decodeWord w) (s.take rest)).imp_right (Or.imp And.left And.left)

/-- Settles O31: an operation's answer is fixed by its context and, for a publish, by its latches; a step idles or is
one operation. -/
theorem everyAnswerIsANextStateOrANamedRefusal : Obligations.EveryAnswerIsANextStateOrANamedRefusal :=
  fun s => ⟨fun i => exec_answer i s, step_answer s⟩

end Sys2Proof.Machine

/-! PROOFS of 20_memory.md. Whose state an operation reads and writes (R51, R219): the interrupt handlers come to four
operations on the channels, each of which reads and writes channels alone; the polling agent's operations write latches
and sinks, and a publish reads nothing else. -/

namespace Sys2Proof.Machine

section edgesReadChannels
variable {s s' : State} (h : s.ch = s'.ch)
include h

theorem State.sckRise_ch_congr (d : Bool) : (s.sckRise d).ch = (s'.sckRise d).ch :=
  PerChannel.ext_get fun c => by rw [State.sckRise_ch_get, State.sckRise_ch_get, h]

theorem State.csAssert_ch_congr (c : Channel) : (s.csAssert c).ch = (s'.csAssert c).ch := by
  rw [State.csAssert_ch, State.csAssert_ch, h]

theorem State.csDeassert_ch_congr (c : Channel) : (s.csDeassert c).ch = (s'.csDeassert c).ch := by
  rw [State.csDeassert_ch, State.csDeassert_ch, h]

theorem State.clocks_ch_congr (bits : List Bool) : (s.clocks bits).ch = (s'.clocks bits).ch :=
  PerChannel.ext_get fun c => by rw [State.clocks_ch_get, State.clocks_ch_get, h]

theorem State.frame_ch_congr (c : Channel) (bits : List Bool) : (s.frame c bits).ch = (s'.frame c bits).ch :=
  State.csDeassert_ch_congr (State.clocks_ch_congr (State.csAssert_ch_congr h c) bits) c

end edgesReadChannels

/-- The interrupt handlers' operations: a clock, the two select edges, and a whole frame (R71, R219). -/
theorem interrupt_cases {i : Instr} (h : contextOf i = some .interrupt) :
    (∃ d, ∀ s, exec i s = .next (s.sckRise d)) ∨
    (∃ c, ∀ s, exec i s = .next (s.csAssert c)) ∨
    (∃ c, ∀ s, exec i s = .next (s.csDeassert c)) ∨
    (∃ c bits, ∀ s, exec i s = .next (s.frame c bits)) := by
  cases i with
  | sckRise v => exact .inl ⟨_, fun _ => rfl⟩
  | csAssert c => exact .inr (.inl ⟨_, fun _ => rfl⟩)
  | csDeassert c => exact .inr (.inr (.inl ⟨_, fun _ => rfl⟩))
  | frameControl c lead value => exact .inr (.inr (.inr ⟨_, _, fun _ => rfl⟩))
  | frameDisplay c lead value => exact .inr (.inr (.inr ⟨_, _, fun _ => rfl⟩))
  | frameDiscard c bits => exact .inr (.inr (.inr ⟨_, _, fun _ => rfl⟩))
  | _ => cases h

/-- An edge operation computes the channels from the channels alone, and leaves the polling agent's state (R51). -/
theorem exec_interrupt_congr {i : Instr} (hi : contextOf i = some .interrupt) {s s' : State} (h : s.ch = s'.ch) :
    ∃ t t', exec i s = .next t ∧ exec i s' = .next t' ∧ t.ch = t'.ch ∧
      t.snap = s.snap ∧ t.time = s.time ∧ t.status = s.status := by
  obtain ⟨d, e⟩ | ⟨c, e⟩ | ⟨c, e⟩ | ⟨c, bits, e⟩ := interrupt_cases hi
  · exact ⟨_, _, e s, e s', State.sckRise_ch_congr h d, rfl, rfl, rfl⟩
  · exact ⟨_, _, e s, e s', State.csAssert_ch_congr h c, rfl, rfl, rfl⟩
  · exact ⟨_, _, e s, e s', State.csDeassert_ch_congr h c, rfl, rfl, rfl⟩
  · exact ⟨_, _, e s, e s', State.frame_ch_congr h c bits, s.frame_snap c bits, s.frame_time c bits,
      s.frame_status c bits⟩

/-- A polling operation writes no channel (R51). -/
theorem exec_polling_ch {i : Instr} (hi : contextOf i = some .polling) {s t : State} (ht : exec i s = .next t) :
    t.ch = s.ch := by
  obtain ⟨c, rfl⟩ | ⟨c, rfl⟩ | rfl | rfl := polling_cases hi
  · cases ht; exact s.readCtrl_ch c
  · cases ht; exact s.readDisp_ch c
  · by_cases hl : timeLoaded s = true
    · cases (execPublishTime_of_loaded s hl).symm.trans ht
      exact s.publish_ch .time s.timeText
    · cases (execPublishTime_of_not_loaded s hl).symm.trans ht
  · by_cases hl : statusLoaded s = true
    · cases (execPublishStatus_of_loaded s hl).symm.trans ht
      exact s.publish_ch .status s.statusText
    · cases (execPublishStatus_of_not_loaded s hl).symm.trans ht

section publishReadsLatches
variable {s s' : State} (h : s.snap = s'.snap)
include h

theorem timeLoaded_congr : timeLoaded s = timeLoaded s' := by
  rw [timeLoaded, timeLoaded, h]

theorem statusLoaded_congr : statusLoaded s = statusLoaded s' := by
  rw [statusLoaded, statusLoaded, h]

theorem State.timeText_congr : s.timeText = s'.timeText := by
  rw [State.timeText, State.timeText, h]

theorem State.statusText_congr : s.statusText = s'.statusText := by
  rw [State.statusText, State.statusText, h]

end publishReadsLatches

@[simp] theorem State.publish_time_time (s : State) (x : String) :
    (s.publish .time x).time = s.time.publish x := rfl

@[simp] theorem State.publish_status_status (s : State) (x : String) :
    (s.publish .status x).status = s.status.publish x := rfl

/-- From equal latches and equal sinks a publish either leaves equal sinks or is refused alike (R51, R200). -/
theorem exec_publish_congr {i : Instr} (hi : i = .publishTime ∨ i = .publishStatus) {s s' : State}
    (hsnap : s.snap = s'.snap) (htime : s.time = s'.time) (hstatus : s.status = s'.status) :
    (∃ t t', exec i s = .next t ∧ exec i s' = .next t' ∧ t.time = t'.time ∧ t.status = t'.status) ∨
    (∃ r, exec i s = .refused r ∧ exec i s' = .refused r) := by
  obtain rfl | rfl := hi
  · have hload := timeLoaded_congr hsnap
    by_cases hl : timeLoaded s = true
    · refine .inl ⟨_, _, execPublishTime_of_loaded s hl, execPublishTime_of_loaded s' (hload ▸ hl), ?_, hstatus⟩
      rw [State.publish_time_time, State.publish_time_time, htime, State.timeText_congr hsnap]
    · exact .inr ⟨_, execPublishTime_of_not_loaded s hl, execPublishTime_of_not_loaded s' (hload ▸ hl)⟩
  · have hload := statusLoaded_congr hsnap
    by_cases hl : statusLoaded s = true
    · refine .inl ⟨_, _, execPublishStatus_of_loaded s hl, execPublishStatus_of_loaded s' (hload ▸ hl), htime, ?_⟩
      rw [State.publish_status_status, State.publish_status_status, hstatus, State.statusText_congr hsnap]
    · exact .inr ⟨_, execPublishStatus_of_not_loaded s hl, execPublishStatus_of_not_loaded s' (hload ▸ hl)⟩

/-- Settles O29: polling operations write no channel, edge operations read and write channels alone, and a publish
reads latches and sinks alone. -/
theorem contextsKeepToTheirOwnState : Obligations.ContextsKeepToTheirOwnState := by
  intro i s s'
  refine ⟨fun hi t ht => exec_polling_ch hi ht, fun hi hch => exec_interrupt_congr hi hch, ?_⟩
  intro hi hsnap htime hstatus
  obtain ⟨t, t', e, e', ht, hst⟩ | ⟨r, e, e'⟩ := exec_publish_congr hi hsnap htime hstatus
  · refine ⟨fun u hu => ?_, fun q hq => (nomatch e.symm.trans hq)⟩
    cases e.symm.trans hu
    exact ⟨t', e', ht, hst⟩
  · refine ⟨fun u hu => (nomatch e.symm.trans hu), fun q hq => ?_⟩
    cases e.symm.trans hq
    exact e'

end Sys2Proof.Machine

/-! PROOFS of 30_encoding.md. The words of a frame run to the frame operation, whose assembled bits a commit copies to a
register (R75, R76, R79); the reserved words are those that decode to an operation without a context (R74); a falling
clock edge is no event (R83). -/

namespace Sys2Proof

/-- A bit read most significant first: bit `i` is the one that arrived `i` places before the last (R79). -/
theorem ofMsbFirst_getLsbD_of_lt {w i : Nat} {bits : List Bool} (hw : i < w) (hi : i < bits.length) :
    (ofMsbFirst w bits).getLsbD i = bits.getD (bits.length - 1 - i) false := by
  rw [ofMsbFirst, shiftInBits_getLsbD, if_pos hi, decide_eq_true hw, Bool.true_and, List.getD_eq_getElem?_getD,
    List.getElem?_reverse hi, List.getD_eq_getElem?_getD]

/-- Above as many bits as arrived, the number read is 0 (R79). -/
theorem ofMsbFirst_getLsbD_of_ge {w i : Nat} {bits : List Bool} (hi : bits.length ≤ i) :
    (ofMsbFirst w bits).getLsbD i = false := by
  rw [ofMsbFirst, shiftInBits_getLsbD]
  simp [Nat.not_lt.mpr hi]

/-- The last `n` bits that arrived fill the low `n` places in arrival order, from place `n - 1` down (R75, R76). -/
theorem ofMsbFirst_getLsbD_last {w n k : Nat} {bits : List Bool} (hw : n ≤ w) (hn : n ≤ bits.length) (hk : k < n) :
    (ofMsbFirst w bits).getLsbD (n - 1 - k) = bits.getD (bits.length - n + k) false := by
  rw [ofMsbFirst_getLsbD_of_lt (by omega) (by omega)]
  congr 1
  omega

end Sys2Proof

namespace Sys2Proof.Machine

/-! ### A frame's words run to the frame operation -/

@[simp] theorem feed_assertWord (s : State) (c : Channel) : feed s (assertWord c) = (s.csAssert c, none) :=
  feed_of_next (by rw [decodeWord_assertWord]; rfl)

@[simp] theorem feed_deassertWord (s : State) (c : Channel) : feed s (deassertWord c) = (s.csDeassert c, none) :=
  feed_of_next (by rw [decodeWord_deassertWord]; rfl)

@[simp] theorem feed_clockWord (s : State) (d : Bool) : feed s (clockWord d) = (s.sckRise d, none) :=
  feed_of_next (by rw [decodeWord_clockWord, exec, execSckRise, dataBit_dataLevel])

/-- A run of clock words is a row of clock events (R79). -/
theorem afterTrace_clockWords (s : State) (bits : List Bool) :
    afterTrace s (bits.map clockWord) = s.clocks bits := by
  induction bits generalizing s with
  | nil => rfl
  | cons d bits ih => rw [List.map_cons, afterTrace_cons, feed_clockWord, ih, State.clocks_cons]

/-- The run of a frame's words is the frame operation (R75 to R77). -/
theorem afterTrace_frameWords (s : State) (c : Channel) (bits : List Bool) :
    afterTrace s (assertWord c :: (bits.map clockWord ++ [deassertWord c])) = s.frame c bits := by
  rw [afterTrace_cons, feed_assertWord, afterTrace_append, afterTrace_clockWords, afterTrace_cons, feed_deassertWord,
    afterTrace_nil, State.frame]

/-! ### What a frame leaves in its channel -/

/-- A frame's clock events, from the assert on: the bits assembled from zero, and their count modulo 256 (R79, R101). -/
theorem ChannelDecoder.assert_afterClocks (x : ChannelDecoder) (bits : List Bool) :
    x.assert.afterClocks bits =
      { x.assert with sb := ofMsbFirst Config.sbW bits, bc := BitVec.ofNat Config.bcW bits.length } := by
  simp [ChannelDecoder.afterClocks, ofMsbFirst]

section frameRegisters
variable (s : State) (c : Channel) (bits : List Bool)

/-- The shift buffer after a frame holds the assembled bits, whatever the length commits (R79, R102). -/
theorem State.frame_sb : ((s.frame c bits).ch.get c).sb = ofMsbFirst Config.sbW bits := by
  rw [State.frame_ch_get_self, ChannelDecoder.deassert_sb, ChannelDecoder.assert_afterClocks]

/-- A frame of control length writes the control register with the assembled bits (R75, R103). -/
theorem State.frame_ctrl (h : bits.length % 256 = 8) :
    ((s.frame c bits).ch.get c).ctrl = controlValue (ofMsbFirst Config.sbW bits) := by
  rw [State.frame_ch_get_self, ChannelDecoder.assert_afterClocks, ChannelDecoder.deassert_of_eight _ (by simpa using h)]

/-- A frame of display length writes the display register with the whole shift buffer (R76, R104). -/
theorem State.frame_disp (h : bits.length % 256 = 24) :
    ((s.frame c bits).ch.get c).disp = ((s.frame c bits).ch.get c).sb := by
  rw [State.frame_ch_get_self, ChannelDecoder.assert_afterClocks,
    ChannelDecoder.deassert_of_twentyFour _ (by simpa using h)]
  exact BitVec.setWidth_eq _

end frameRegisters

/-- A control commit takes the low eight bits of the shift buffer as they stand (R103). -/
theorem controlValue_getLsbD {i : Nat} (hi : i < 8) (sb : ShiftWord) :
    (controlValue sb).getLsbD i = sb.getLsbD i := by
  simp [controlValue, hi]

/-- Settles O23: the frame commits the low eight assembled bits, which are the last eight that arrived. -/
theorem controlFrameBitOrder : Obligations.ControlFrameBitOrder := by
  intro c bits s hlen k hk
  rw [afterTrace_frameWords, State.frame_ctrl s c bits hlen, controlValue_getLsbD (by omega)]
  exact ofMsbFirst_getLsbD_last (n := 8) (by decide) (by omega) hk

/-- Settles O24: the frame commits the whole shift buffer, whose low 24 bits are the last 24 that arrived and which is 0
above the bits that arrived. -/
theorem displayFrameBitOrder : Obligations.DisplayFrameBitOrder := by
  intro c bits s hlen
  have hdisp := State.frame_disp s c bits hlen
  have hsb := State.frame_sb s c bits
  rw [afterTrace_frameWords]
  refine ⟨fun k hk => ?_, by rw [hdisp], fun h24 => ?_⟩
  · rw [hdisp, hsb]
    exact ofMsbFirst_getLsbD_last (n := 24) (by decide) (by omega) hk
  · rw [hdisp, hsb]
    refine BitVec.eq_of_getLsbD_eq fun i hi => ?_
    rw [BitVec.getLsbD_extractLsb', ofMsbFirst_getLsbD_of_ge (by omega)]
    simp

/-! ### Reserved words -/

/-- Settles O32: the reserved operations run in no context. -/
theorem reservedWordsAreRefused : Obligations.ReservedWordsAreRefused := by
  intro k0 c v s
  refine ⟨?_, ?_, ?_, ?_, ?_, ?_, ?_⟩ <;> exact exec_refused_of_noContext rfl s

/-- In every state, the operations refused as reserved are those without a context (R74, R219). -/
theorem exec_eq_reservedEvent_iff (i : Instr) (s : State) :
    exec i s = .refused .reservedEvent ↔ contextOf i = none := by
  refine ⟨fun h => ?_, fun h => exec_refused_of_noContext h s⟩
  obtain ⟨t, hnext⟩ | ⟨-, hnone⟩ | ⟨hunread, -⟩ := exec_answer i s
  · cases h.symm.trans hnext
  · exact hnone
  · cases h.symm.trans hunread

/-- The words that decode to an operation without a context, listed (R74). -/
theorem contextOf_decodeWord_eq_none_iff (w : EventWord) :
    contextOf (decodeWord w) = none ↔
      w.toNat ∈ [0x02, 0x03, 0x09, 0x0B, 0x0D, 0x0F, 0x11, 0x12, 0x13, 0x15, 0x16, 0x17,
        0x18, 0x19, 0x1A, 0x1B, 0x1C, 0x1D, 0x1E, 0x1F] := by
  revert w
  decide

/-- Settles O33: being refused as reserved is having no context, which does not depend on the state. -/
theorem exactlyTheListedWordsAreReserved : Obligations.ExactlyTheListedWordsAreReserved :=
  fun w s => (exec_eq_reservedEvent_iff (decodeWord w) s).trans (contextOf_decodeWord_eq_none_iff w)

/-- Settles O34: the reserved word is fed to the state that the words before it reach, and is refused there. -/
theorem refusedWordsLeaveNoMark : Obligations.RefusedWordsLeaveNoMark := by
  intro before after w s hw
  rw [afterTrace_append, afterTrace_append, afterTrace_cons, feed_of_refused (exec_refused_of_noContext hw _)]

/-! ### Line transitions -/

/-- A falling clock edge is not the sampling edge, so it is no event (R83, R151). -/
theorem eventOfEdge_sck_falling (l : Lines) : eventOfEdge l (.sck .falling) = none := rfl

theorem eventsOfEdges_append (a b : List (Lines × LineEdge)) :
    eventsOfEdges (a ++ b) = eventsOfEdges a ++ eventsOfEdges b :=
  List.filterMap_append

/-- A transition that is no event adds no word to those delivered. -/
theorem eventsOfEdges_cons_of_none {l : Lines} {e : LineEdge} (h : eventOfEdge l e = none)
    (es : List (Lines × LineEdge)) : eventsOfEdges ((l, e) :: es) = eventsOfEdges es :=
  List.filterMap_cons_none h

/-- Settles O53: the falling edge adds no word, so the run delivers the same words with it and without it. -/
theorem fallingClockEdgeDeliversNothing : Obligations.FallingClockEdgeDeliversNothing := by
  intro l before after s
  have hnone := eventOfEdge_sck_falling l
  refine ⟨hnone, ?_⟩
  rw [eventsOfEdges_append, eventsOfEdges_append, eventsOfEdges_cons_of_none hnone]

end Sys2Proof.Machine

/-! PROOFS of 40_channel_decoder.md. A select word's operation is fixed by the level it carries (R100); an assert and a
deassert replace one channel decoder and nothing else, a deassert by the frame's length (R101 to R105); a valid word's
operation runs in a context, and there nothing but an unread latch refuses it (R112). -/

namespace Sys2Proof.Machine

/-! ### The select edges -/

/-- A select word decodes to its level's operation, whatever the channel (R71, R100). -/
theorem decodeWord_selectWord (c : Channel) (v : Level) : decodeWord (eventWord 1 c v) = selectEdge c v := by
  rw [decodeWord, kindField_eventWord, channelField_eventWord, levelField_eventWord]
  rfl

/-- A select word runs CS_ASSERT where the level it carries is low, and CS_DEASSERT where it is high (R100). -/
theorem exec_selectWord (c : Channel) (v : Level) (s : State) :
    exec (decodeWord (eventWord 1 c v)) s =
      if v = .low then exec (.csAssert c) s else exec (.csDeassert c) s := by
  rw [decodeWord_selectWord]
  cases v with
  | low => rfl
  | high => rfl

/-- A transition of a select line delivers the select word of the line's level (R152). -/
theorem eventOfEdge_cs (l : Lines) (c : Channel) : eventOfEdge l (.cs c) = some (eventWord 1 c (l.cs c)) := rfl

/-- Settles O8: the word of a select edge carries the line's level, and a select word follows the level it carries. -/
theorem selectEdgeFollowsTheLevelRead : Obligations.SelectEdgeFollowsTheLevelRead :=
  fun c s => ⟨fun v => exec_selectWord c v s,
    fun l => ⟨eventWord 1 c (l.cs c), eventOfEdge_cs l c, exec_selectWord c (l.cs c) s⟩⟩

/-- CS_ASSERT replaces its channel's decoder by the asserted one (R101). -/
theorem exec_csAssert (c : Channel) (s : State) :
    exec (.csAssert c) s = .next (s.setCh c (s.ch.get c).assert) := rfl

/-- CS_DEASSERT replaces its channel's decoder by the deasserted one (R102). -/
theorem exec_csDeassert (c : Channel) (s : State) :
    exec (.csDeassert c) s = .next (s.setCh c (s.ch.get c).deassert) := rfl

/-- Settles O9: the asserted decoder differs in the three fields named. -/
theorem assertClearsTheFrame : Obligations.AssertClearsTheFrame :=
  fun c s => exec_csAssert c s

/-- A control commit takes `sb[7:0]` (R103). -/
theorem controlValue_eq_extractLsb' (sb : ShiftWord) : controlValue sb = sb.extractLsb' 0 8 :=
  BitVec.setWidth_eq_extractLsb' (by decide)

/-- Settles O10: at length 8 the deasserted decoder is the one the control commit leaves. -/
theorem deassertAtEightCommitsControl : Obligations.DeassertAtEightCommitsControl := by
  intro c s h8
  rw [exec_csDeassert, ChannelDecoder.deassert_of_eight _ h8, controlValue_eq_extractLsb', State.setCh]

/-- Settles O12: at any other length the deasserted decoder differs in `sel` alone. -/
theorem deassertAtAnyOtherLengthDiscards : Obligations.DeassertAtAnyOtherLengthDiscards := by
  intro c s h8 h24
  rw [exec_csDeassert, ChannelDecoder.deassert_of_glitch _ h8 h24, State.setCh]

/-! ### Every valid word finishes -/

/-- Settles O30: of the answers an operation can give, a refusal as reserved wants an operation without a context, and a
refused publish wants a latch that was not read. -/
theorem validWordsNeverBlock : Obligations.ValidWordsNeverBlock := by
  intro w s hvalid htime hstatus
  obtain hnext | ⟨-, hreserved⟩ | ⟨-, ⟨hw, hunread⟩ | ⟨hw, hunread⟩⟩ := exec_answer (decodeWord w) s
  · exact hnext
  · exact absurd hreserved hvalid
  · exact absurd (htime hw) (Bool.eq_false_iff.mp hunread)
  · exact absurd (hstatus hw) (Bool.eq_false_iff.mp hunread)

end Sys2Proof.Machine

/-! PROOFS of 41_glyph_decode.md. Each mode of the glyph decoder is read off its table (R130); the entries of the normal
table are distinct, so normal mode is a bijection onto them (R133). -/

namespace Sys2Proof.Machine

/-! ### The glyph decoder -/

/-- The characters of normal mode, in the order of their nibbles (R130). -/
def normalTable : List Char :=
  ['0', '1', '2', '3', '4', '5', '6', '7', '8', '9', 'A', 'B', 'C', 'D', 'E', 'F']

/-- The characters of special mode, in the order of their nibbles (R130). -/
def specialTable : List Char :=
  [' ', 'c', 'H', 'h', 'J', 'L', 'n', 'o', 'P', 'r', 'U', 'u', 'y', '-', '=', 'o']

theorem nodup_normalTable : normalTable.Nodup := by decide

theorem decodeGlyph_normal (n : Nibble) : some (decodeGlyph n false) = normalTable[n.toNat]? := by
  revert n
  decide

theorem decodeGlyph_special (n : Nibble) : some (decodeGlyph n true) = specialTable[n.toNat]? := by
  revert n
  decide

/-- Two nibbles with one character are one place in the table, whose entries are distinct. -/
theorem decodeGlyph_normal_injective : Function.Injective (decodeGlyph · false) := by
  intro m n (hmn : decodeGlyph m false = decodeGlyph n false)
  have hplace : normalTable[m.toNat]? = normalTable[n.toNat]? := by
    rw [← decodeGlyph_normal, ← decodeGlyph_normal, hmn]
  exact BitVec.eq_of_toNat_eq ((List.getElem?_inj m.isLt nodup_normalTable).mp hplace)

/-- A character's place in the table is below 16, so it is a nibble. -/
theorem exists_decodeGlyph_normal {a : Char} (ha : a ∈ normalTable) : ∃ n, decodeGlyph n false = a := by
  obtain ⟨k, hk, rfl⟩ := List.mem_iff_getElem.mp ha
  have hnibble : k < 2 ^ 4 := hk
  refine ⟨BitVec.ofNatLT k hnibble, Option.some_injective _ ?_⟩
  rw [decodeGlyph_normal, BitVec.toNat_ofNatLT, List.getElem?_eq_getElem hk]

/-- Settles O43: both modes are their tables; in normal mode every character of the table has a nibble, and by
injectivity only one. -/
theorem glyphTables : Obligations.GlyphTables := by
  refine ⟨decodeGlyph_normal, fun a ha => ?_, decodeGlyph_special, rfl, rfl, by decide⟩
  obtain ⟨n, rfl⟩ := exists_decodeGlyph_normal ha
  exact ⟨n, rfl, fun _ hm => decodeGlyph_normal_injective hm⟩

end Sys2Proof.Machine

/-! PROOFS of 43_state_interpreter.md. The classifier asks first whether the display is off, then whether the low-order
glyph is '-' (R161, R162): one equation per answer, and the three conditions exclude each other. -/

namespace Sys2Proof.Machine

/-! ### The classifier -/

theorem isDisplayOff_iff (lc : CtrlWord) : isDisplayOff lc = true ↔ lc.getLsbD 0 = false :=
  beq_iff_eq

section classifier
variable {t : ModeTest} {lc : CtrlWord} {ld : DispWord}

/-- With the display off the glyphs are not consulted (R162). -/
theorem decodeState_of_off (hoff : lc.getLsbD 0 = false) : decodeState t lc ld = .doorOpen :=
  if_pos ((isDisplayOff_iff lc).mpr hoff)

theorem decodeState_of_on (hon : lc.getLsbD 0 = true) :
    decodeState t lc ld = if glyph t 0 lc ld = '-' then .fault else .normal :=
  if_neg (by simp [isDisplayOff_iff, hon])

theorem decodeState_of_dash (hon : lc.getLsbD 0 = true) (hdash : glyph t 0 lc ld = '-') :
    decodeState t lc ld = .fault :=
  (decodeState_of_on hon).trans (if_pos hdash)

theorem decodeState_of_not_dash (hon : lc.getLsbD 0 = true) (hdash : glyph t 0 lc ld ≠ '-') :
    decodeState t lc ld = .normal :=
  (decodeState_of_on hon).trans (if_neg hdash)

end classifier

/-- Settles O45: each of the three cases of control bit 0 and the low-order glyph has its own answer, so each answer
comes from its case alone. -/
theorem classificationOfTheLeftRegisters : Obligations.ClassificationOfTheLeftRegisters := by
  intro t lc ld
  cases hbit : lc.getLsbD 0 with
  | false => simp [decodeState_of_off hbit]
  | true =>
    by_cases hdash : glyph t 0 lc ld = '-'
    · simp [decodeState_of_dash hbit hdash, hdash]
    · simp [decodeState_of_not_dash hbit hdash, hdash]

end Sys2Proof.Machine

/-! PROOFS of 44_status_formatter.md. Each option's mask has one set bit, so its test reads that bit; a filtered list is
the concatenation of its entries' contributions, which is the form in which the labels are listed (R185). -/

namespace Sys2Proof.Machine

/-! ### The option labels -/

theorem twoPow_ne_zero {w i : Nat} (hi : i < w) : BitVec.twoPow w i ≠ 0#w := by
  intro hzero
  have hbit : (BitVec.twoPow w i).getLsbD i = (0#w).getLsbD i := by rw [hzero]
  simp [hi] at hbit

theorem and_twoPow_bne_zero {w i : Nat} (hi : i < w) (x : BitVec w) :
    (x &&& BitVec.twoPow w i != 0#w) = x.getLsbD i := by
  rw [BitVec.and_twoPow]
  cases x.getLsbD i with
  | false => exact bne_self_eq_false _
  | true => exact bne_iff_ne.mpr (twoPow_ne_zero hi)

section optionBits
variable (rd : DispWord)

theorem optPrewash_eq_getLsbD : optPrewash rd = rd.getLsbD 8 :=
  and_twoPow_bne_zero (i := 8) (by decide) rd

theorem optShort_eq_getLsbD : optShort rd = rd.getLsbD 6 :=
  and_twoPow_bne_zero (i := 6) (by decide) rd

theorem optWaterPlus_eq_getLsbD : optWaterPlus rd = rd.getLsbD 7 :=
  and_twoPow_bne_zero (i := 7) (by decide) rd

theorem optSummer_eq_getLsbD : optSummer rd = rd.getLsbD 16 :=
  and_twoPow_bne_zero (i := 16) (by decide) rd

end optionBits

/-- The first entry contributes its image or nothing, in front of what the others contribute. -/
theorem map_filter_cons {α β : Type} (p : α → Bool) (f : α → β) (a : α) (l : List α) :
    ((a :: l).filter p).map f = (if p a then [f a] else []) ++ (l.filter p).map f := by
  cases ha : p a with
  | false => simp [ha]
  | true => simp [ha]

/-- Settles O50: by the tests' bits, both sides are the four options' contributions in the listed order. -/
theorem optionLabelsInDeclaredOrder : Obligations.OptionLabelsInDeclaredOrder := by
  intro rd
  rw [optionLabels, optPrewash_eq_getLsbD, optShort_eq_getLsbD, optWaterPlus_eq_getLsbD, optSummer_eq_getLsbD]
  simp only [map_filter_cons, List.filter_nil, List.map_nil, List.append_nil, List.append_assoc]

end Sys2Proof.Machine

/-! PROOFS of 70_reset_and_hazards.md. An assert overwrites what clock events write, so a frame that an assert
interrupts leaves no mark on its channel (R237). -/

namespace Sys2Proof.Machine

/-! ### A frame that is restarted -/

/-- An assert clears the two fields that clock events change, so none of the events before it shows (R101, R106). -/
@[simp] theorem ChannelDecoder.afterClocks_assert (x : ChannelDecoder) (bits : List Bool) :
    (x.afterClocks bits).assert = x.assert := by
  unfold ChannelDecoder.afterClocks
  split
  · rfl
  · rfl

/-- An assert of an asserted decoder changes nothing more (R101). -/
@[simp] theorem ChannelDecoder.assert_assert (x : ChannelDecoder) : x.assert.assert = x.assert := rfl

/-- The run of an assert, clock words and a second assert: on its channel, the first assert alone (R101, R237). -/
theorem afterTrace_reassert_ch_get (s : State) (c : Channel) (bits : List Bool) :
    (afterTrace s (assertWord c :: (bits.map clockWord ++ [assertWord c]))).ch.get c = (s.ch.get c).assert := by
  have hrun : afterTrace s (assertWord c :: (bits.map clockWord ++ [assertWord c])) =
      ((s.csAssert c).clocks bits).csAssert c := by
    rw [afterTrace_cons, feed_assertWord, afterTrace_append, afterTrace_clockWords, afterTrace_cons, feed_assertWord,
      afterTrace_nil]
  rw [hrun, State.csAssert_ch, PerChannel.get_set_same, State.clocks_ch_get, ChannelDecoder.afterClocks_assert,
    State.csAssert_ch, PerChannel.get_set_same, ChannelDecoder.assert_assert]

/-- Settles O16: the decoder that a restarted frame leaves is the one the first assert made. -/
theorem reassertRestartsTheFrame : Obligations.ReassertRestartsTheFrame :=
  fun c bits s => afterTrace_reassert_ch_get s c bits

end Sys2Proof.Machine

/-! PROOFS of 30_encoding.md. An event word and its operation spell each other (R70 to R74), and so do a frame's words
and its data bits (R75 to R78); which frame the bits are is decided by their number, and a committing frame's last bits
are its value. -/

namespace Sys2Proof

/-! ### Event words -/

/-- The operation of a word encodes to that word: the encoding has no second spelling (R71, R74). -/
theorem encode_decodeWord (w : EventWord) : encode (decodeWord w) = [w] := by
  revert w
  decide

theorem decodeWord_wellFormed (w : EventWord) : (decodeWord w).WellFormed := by
  revert w
  decide

/-- An instruction that decodes from a word and encodes to `[w]` decodes from `w`. -/
theorem eq_of_encode_eq_singleton {w w' : EventWord} (h : encode (decodeWord w) = [w']) : w = w' :=
  List.singleton_injective ((encode_decodeWord w).symm.trans h)

theorem eq_assertWord {w : EventWord} {c : Channel} (h : decodeWord w = .csAssert c) : w = assertWord c :=
  eq_of_encode_eq_singleton (congrArg encode h)

theorem eq_deassertWord {w : EventWord} {c : Channel} (h : decodeWord w = .csDeassert c) : w = deassertWord c :=
  eq_of_encode_eq_singleton (congrArg encode h)

theorem eq_clockWord {w : EventWord} {v : Level} (h : decodeWord w = .sckRise v) : w = clockWord (dataBit v) := by
  rw [clockWord, dataLevel_dataBit]
  exact eq_of_encode_eq_singleton (congrArg encode h)

/-- An instruction that clocks no data bits of its own is the operation of the one word it encodes to (R70). -/
theorem exists_word_of_event {i : Instr} (h : Laws.frameBitCount i = none) :
    ∃ w, encode i = [w] ∧ decodeWord w = i := by
  cases i with
  | sckRise v => exact ⟨_, rfl, by cases v <;> rfl⟩
  | csAssert c => exact ⟨_, rfl, decodeWord_assertWord c⟩
  | csDeassert c => exact ⟨_, rfl, decodeWord_deassertWord c⟩
  | readCtrl c => exact ⟨_, rfl, by cases c <;> rfl⟩
  | readDisp c => exact ⟨_, rfl, by cases c <;> rfl⟩
  | publishTime => exact ⟨_, rfl, rfl⟩
  | publishStatus => exact ⟨_, rfl, rfl⟩
  | reservedSckC1 v => exact ⟨_, rfl, by cases v <;> rfl⟩
  | reservedReadV1 k0 c => exact ⟨_, rfl, by cases k0 <;> cases c <;> rfl⟩
  | reservedPublishTimeV1 => exact ⟨_, rfl, rfl⟩
  | reservedPublishTimeC1 v => exact ⟨_, rfl, by cases v <;> rfl⟩
  | reservedPublishStatusV1 => exact ⟨_, rfl, rfl⟩
  | reservedPublishStatusC1 v => exact ⟨_, rfl, by cases v <;> rfl⟩
  | reservedK11x k0 c v => exact ⟨_, rfl, by cases k0 <;> cases c <;> cases v <;> rfl⟩
  | frameControl c lead value => cases h
  | frameDisplay c lead value => cases h
  | frameDiscard c bits => cases h

/-! ### The bits of a frame and its kind -/

/-- Assembling exactly as many bits as the width and clocking them out again gives the bits back (R58, R79). -/
theorem msbFirst_ofMsbFirst {n : Nat} {bits : List Bool} (h : bits.length = n) :
    msbFirst (ofMsbFirst n bits) n = bits := by
  refine List.reverse_injective (List.ext_getElem (by simp [h]) fun k hk hk' => ?_)
  have hkn : k < n := by simpa using hk
  rw [← List.getD_eq_getElem _ false hk, msbFirst_reverse_getD _ n k hkn, ofMsbFirst, shiftInBits_getLsbD,
    if_pos (by omega), decide_eq_true hkn, Bool.true_and, List.getD_eq_getElem _ false hk']

/-- A committing frame's bits are those before its value and the value's own. -/
theorem take_append_msbFirst_drop {n : Nat} {bits : List Bool} (h : n ≤ bits.length) :
    bits.take (bits.length - n) ++ msbFirst (ofMsbFirst n (bits.drop (bits.length - n))) n = bits := by
  rw [msbFirst_ofMsbFirst (by rw [List.length_drop]; omega), List.take_append_drop]

section classify
variable {c : Channel} {bits : List Bool}

theorem classifyFrame_of_control (h : bits.length % 256 = 8) :
    classifyFrame c bits = .frameControl c (bits.take (bits.length - 8))
      (ofMsbFirst 8 (bits.drop (bits.length - 8))) :=
  if_pos ((isControlLength_iff _).mpr h)

theorem classifyFrame_of_display (h : bits.length % 256 = 24) :
    classifyFrame c bits = .frameDisplay c (bits.take (bits.length - 24))
      (ofMsbFirst 24 (bits.drop (bits.length - 24))) := by
  have h8 : ¬ isControlLength bits.length = true := by rw [isControlLength_iff]; omega
  exact (if_neg h8).trans (if_pos ((isDisplayLength_iff _).mpr h))

theorem classifyFrame_of_discard (h8 : bits.length % 256 ≠ 8) (h24 : bits.length % 256 ≠ 24) :
    classifyFrame c bits = .frameDiscard c bits :=
  (if_neg ((isControlLength_iff _).not.mpr h8)).trans (if_neg ((isDisplayLength_iff _).not.mpr h24))

end classify

theorem leadWraps_take_length_sub {n : Nat} {bits : List Bool} (h : bits.length % 256 = n) :
    leadWraps (bits.take (bits.length - n)) = true := by
  rw [leadWraps_iff, List.length_take]
  omega

/-- The frame that bits classify to is well formed and carries exactly those bits, whatever their number (R75 to
R78). -/
theorem classifyFrame_spec (c : Channel) (bits : List Bool) :
    (classifyFrame c bits).WellFormed ∧ encode (classifyFrame c bits) = frameWords c bits := by
  by_cases h8 : bits.length % 256 = 8
  · rw [classifyFrame_of_control h8]
    exact ⟨leadWraps_take_length_sub h8, congrArg (frameWords c) (take_append_msbFirst_drop (by omega))⟩
  · by_cases h24 : bits.length % 256 = 24
    · rw [classifyFrame_of_display h24]
      exact ⟨leadWraps_take_length_sub h24, congrArg (frameWords c) (take_append_msbFirst_drop (by omega))⟩
    · rw [classifyFrame_of_discard h8 h24]
      exact ⟨(isDiscardLength_iff _).mpr ⟨h8, h24⟩, rfl⟩

theorem controlFrameBits_length (lead : List Bool) (value : CtrlWord) :
    (controlFrameBits lead value).length = lead.length + 8 := by
  simp [controlFrameBits]

theorem displayFrameBits_length (lead : List Bool) (value : DispPayload) :
    (displayFrameBits lead value).length = lead.length + 24 := by
  simp [displayFrameBits]

/-- A well-formed control frame's bits classify back to it (R75, R78). -/
theorem classifyFrame_controlFrameBits {c : Channel} {lead : List Bool} {value : CtrlWord}
    (h : leadWraps lead = true) : classifyFrame c (controlFrameBits lead value) = .frameControl c lead value := by
  have hlead := (leadWraps_iff lead).mp h
  have hlen := controlFrameBits_length lead value
  rw [classifyFrame_of_control (by omega), hlen, Nat.add_sub_cancel, controlFrameBits, List.take_left, List.drop_left,
    ofMsbFirst_msbFirst]

/-- A well-formed display frame's bits classify back to it (R76, R78). -/
theorem classifyFrame_displayFrameBits {c : Channel} {lead : List Bool} {value : DispPayload}
    (h : leadWraps lead = true) : classifyFrame c (displayFrameBits lead value) = .frameDisplay c lead value := by
  have hlead := (leadWraps_iff lead).mp h
  have hlen := displayFrameBits_length lead value
  rw [classifyFrame_of_display (by omega), hlen, Nat.add_sub_cancel, displayFrameBits, List.take_left, List.drop_left,
    ofMsbFirst_msbFirst]

theorem classifyFrame_of_isDiscardLength {c : Channel} {bits : List Bool} (h : isDiscardLength bits.length = true) :
    classifyFrame c bits = .frameDiscard c bits := by
  obtain ⟨h8, h24⟩ := (isDiscardLength_iff _).mp h
  exact classifyFrame_of_discard h8 h24

/-! ### Decoding and encoding are inverse -/

/-- An event's word decodes to it; a well-formed frame's words decode to the frame its bits classify to. -/
theorem decode_encode {i : Instr} (hwf : i.WellFormed) : decode (encode i) = .ok i := by
  cases hcount : Laws.frameBitCount i with
  | none =>
    obtain ⟨w, hencode, hdecode⟩ := exists_word_of_event hcount
    rw [hencode, ← hdecode]
    rfl
  | some n =>
    cases i with
    | frameControl c lead value => rw [encode, decode_frameWords, classifyFrame_controlFrameBits hwf]
    | frameDisplay c lead value => rw [encode, decode_frameWords, classifyFrame_displayFrameBits hwf]
    | frameDiscard c bits => rw [encode, decode_frameWords, classifyFrame_of_isDiscardLength hwf]
    | _ => cases hcount

/-- Settles O6: events by their words, frames by their bits. -/
theorem decodeOfEncodeIsTheInstruction : Obligations.DecodeOfEncodeIsTheInstruction :=
  fun _ hwf => decode_encode hwf

/-- What the frame decoder accepts is clock words and the channel's deasserting edge, and nothing after it. -/
theorem words_of_decodeFrameBody {c : Channel} {acc : List Bool} {ws : List EventWord} {i : Instr}
    (h : decodeFrameBody c acc ws = .ok i) :
    ∃ bits, ws = bits.map clockWord ++ [deassertWord c] ∧ i = classifyFrame c (acc.reverse ++ bits) := by
  induction ws generalizing acc with
  | nil => cases h
  | cons w ws ih =>
    unfold decodeFrameBody at h
    split at h
    · next v hw =>
      obtain ⟨bits, hws, hi⟩ := ih h
      exact ⟨dataBit v :: bits, by rw [eq_clockWord hw, hws]; rfl, by rw [hi]; simp⟩
    · next c' hw =>
      split at h
      · next hc =>
        cases ws with
        | nil => cases h; exact ⟨[], by rw [eq_deassertWord hw, hc]; rfl, by rw [List.append_nil]⟩
        | cons w' ws => cases h
      · cases h
    · cases h

/-- The word sequences that decode are single words and frames. -/
theorem decode_eq_ok_cases {ws : List EventWord} {i : Instr} (h : decode ws = .ok i) :
    (∃ w, ws = [w] ∧ i = decodeWord w) ∨ (∃ c bits, ws = frameWords c bits ∧ i = classifyFrame c bits) := by
  match ws with
  | [] => cases h
  | [w] => cases h; exact .inl ⟨w, rfl, rfl⟩
  | w :: w' :: ws =>
    rw [decode] at h
    split at h
    · next c hw =>
      obtain ⟨bits, hws, hi⟩ := words_of_decodeFrameBody h
      exact .inr ⟨c, bits, by rw [eq_assertWord hw, hws]; rfl, hi⟩
    · cases h

/-- Settles O7: a single word and a frame each encode back to the words they were read from. -/
theorem encodeOfDecodeIsTheWords : Obligations.EncodeOfDecodeIsTheWords := by
  intro ws i h
  obtain ⟨w, rfl, rfl⟩ | ⟨c, bits, rfl, rfl⟩ := decode_eq_ok_cases h
  · exact ⟨decodeWord_wellFormed w, encode_decodeWord w⟩
  · exact classifyFrame_spec c bits

/-- Settles O5: ten words and one frame, read off the opcode map. -/
theorem sampleWordsDecodeAsTheMapSays : Obligations.SampleWordsDecodeAsTheMapSays := by
  unfold Obligations.SampleWordsDecodeAsTheMapSays
  decide

end Sys2Proof

/-! PROOFS of 00_scope.md section 4 and 60_exceptions.md section 2. A step handles the word at the head of `input`
(R9, R10); what an edge operation does is a function of the channels alone (R51), so a row of edge words handled step by
step leaves what the same words leave as a trace, and a frame is such a row. -/

namespace Sys2Proof.Machine

/-! ### One step -/

/-- Settles O3: a step with no word delivered is idle. -/
theorem stepIdlesWithoutAnEvent : Obligations.StepIdlesWithoutAnEvent := by
  intro s hinput
  obtain ⟨-, hidle⟩ | ⟨w, rest, hw, -⟩ := step_cases s
  · exact hidle
  · cases hinput.symm.trans hw

/-- A step runs the operation of the word at the head of `input` (R9). -/
theorem step_of_input {s : State} {w : EventWord} {rest : List EventWord} (h : s.input = w :: rest) :
    step s = exec (decodeWord w) (s.take rest) := by
  obtain ⟨hnil, -⟩ | ⟨w', rest', hinput, hstep⟩ := step_cases s
  · cases h.symm.trans hnil
  · cases h.symm.trans hinput
    exact hstep

/-- Settles O2: decoding is total on words, and the step runs what it decodes. -/
theorem stepRunsTheDeliveredWord : Obligations.StepRunsTheDeliveredWord :=
  fun _ _ _ hinput => ⟨rfl, step_of_input hinput⟩

/-- A byte below 32 is read as the event word of that number (log 2). -/
theorem decodeTableWord_eight {n : Nat} (h : n < 32) : decodeTableWord 8 n = some (decodeWord (BitVec.ofNat 5 n)) :=
  if_pos ⟨.inr rfl, h⟩

/-- Settles O4: the placed instruction encodes to the word itself, which the next step takes. -/
theorem placedEventWordRunsNext : Obligations.PlacedEventWordRunsNext := by
  intro s n hn
  have hword := decodeTableWord_eight hn
  have hplaced : s.withFetchWord 8 n = { s with input := BitVec.ofNat 5 n :: s.input } := by
    simp only [State.withFetchWord, hword, State.place, encode_decodeWord, List.singleton_append]
  exact ⟨hword, by rw [hplaced, step_of_input rfl]; rfl⟩

/-- With no loss every word is handled (R214). -/
theorem edgeLost_of_lossless (n : Nat) (w : EventWord) : edgeLost false n w = false := rfl

/-- A word that is no edge is never lost (R214). -/
theorem edgeLost_of_not_edge {w : EventWord} (h : contextOf (decodeWord w) ≠ some .interrupt) (lossy : Bool) (n : Nat) :
    edgeLost lossy n w = false := by
  have hedge : isEdge w = false := beq_eq_false_iff_ne.mpr h
  rw [edgeLost, hedge, Bool.and_false, Bool.false_and]

/-- A word that is not lost is handled whole (R9, R214). -/
theorem handleNext_of_not_lost {lossy : Bool} {s : State} {w : EventWord} {rest : List EventWord}
    (h : s.input = w :: rest) (hkept : edgeLost lossy s.delivered w = false) :
    handleNext lossy s = exec (decodeWord w) (s.take rest) := by
  obtain ⟨hlost, -⟩ | ⟨-, hhandled⟩ := handleNext_cases lossy h
  · cases hkept.symm.trans hlost
  · exact hhandled

/-- Settles O35: a loss needs the lossy setting and an edge word, and only takes the word. -/
theorem onlyEdgesCanBeLost : Obligations.OnlyEdgesCanBeLost := by
  intro lossy s w rest hinput
  refine ⟨?_, fun hpoll => handleNext_of_not_lost hinput (edgeLost_of_not_edge hpoll _ _), ?_⟩
  · rintro rfl
    exact handleNext_of_not_lost hinput (edgeLost_of_lossless _ _)
  · exact (handleNext_cases lossy hinput).symm.imp And.right And.right

/-! ### Edge operations are functions of the channels -/

/-- Equal outside the channels is equal up to the channels. -/
theorem State.eq_withCh {s t : State} (hsnap : t.snap = s.snap) (htime : t.time = s.time) (hstatus : t.status = s.status)
    (hinput : t.input = s.input) (hdelivered : t.delivered = s.delivered) : t = { s with ch := t.ch } := by
  cases s
  cases t
  cases hsnap
  cases htime
  cases hstatus
  cases hinput
  cases hdelivered
  rfl

/-- A frame differs from the state before it in the channels only (R51). -/
theorem State.frame_eq_withCh (s : State) (c : Channel) (bits : List Bool) :
    s.frame c bits = { s with ch := (s.frame c bits).ch } :=
  State.eq_withCh (by simp) (by simp) (by simp) (by simp) (by simp)

/-- The channels after an operation that answers from the given ones; unchanged where it is refused. -/
def channelsAfter (i : Instr) (p : PerChannel ChannelDecoder) : PerChannel ChannelDecoder :=
  match exec i { State.reset with ch := p } with
  | .next t => t.ch
  | .fault _ => p
  | .refused _ => p

theorem channelsAfter_of_next {i : Instr} {p : PerChannel ChannelDecoder} {t : State}
    (h : exec i { State.reset with ch := p } = .next t) : channelsAfter i p = t.ch := by
  rw [channelsAfter, h]

/-- An operation that always completes, writes channels alone and computes them from channels alone, as a replacement
of the channels. -/
theorem exec_eq_withCh {i : Instr} {op : State → State} (hexec : ∀ s, exec i s = .next (op s))
    (hwrites : ∀ s, op s = { s with ch := (op s).ch }) (hreads : ∀ {s s'}, s.ch = s'.ch → (op s).ch = (op s').ch)
    (s : State) : exec i s = .next { s with ch := channelsAfter i s.ch } := by
  have hch : (op { State.reset with ch := s.ch }).ch = (op s).ch := hreads rfl
  rw [channelsAfter_of_next (hexec _), hch, ← hwrites s, hexec s]

/-- An edge operation replaces the channels by a function of them and touches nothing else (R51, R219). -/
theorem exec_interrupt {i : Instr} (h : contextOf i = some .interrupt) (s : State) :
    exec i s = .next { s with ch := channelsAfter i s.ch } := by
  obtain ⟨d, e⟩ | ⟨c, e⟩ | ⟨c, e⟩ | ⟨c, bits, e⟩ := interrupt_cases h
  · exact exec_eq_withCh e (fun _ => rfl) (fun hch => State.sckRise_ch_congr hch d) s
  · exact exec_eq_withCh e (fun _ => rfl) (fun hch => State.csAssert_ch_congr hch c) s
  · exact exec_eq_withCh e (fun _ => rfl) (fun hch => State.csDeassert_ch_congr hch c) s
  · exact exec_eq_withCh e (fun s => s.frame_eq_withCh c bits) (fun hch => State.frame_ch_congr hch c bits) s

/-- An edge word replaces the channels and is never refused. -/
theorem feed_of_interrupt {w : EventWord} (h : contextOf (decodeWord w) = some .interrupt) (s : State) :
    feed s w = ({ s with ch := channelsAfter (decodeWord w) s.ch }, none) :=
  feed_of_next (exec_interrupt h s)

/-- The channels after a row of words that are all edges. -/
def channelsAfterEdges (ws : List EventWord) (p : PerChannel ChannelDecoder) : PerChannel ChannelDecoder :=
  ws.foldl (fun q w => channelsAfter (decodeWord w) q) p

section edgeRows
variable {ws : List EventWord} (hedges : ∀ w ∈ ws, contextOf (decodeWord w) = some .interrupt)
include hedges

/-- As a trace, a row of edge words replaces the channels and touches nothing else. -/
theorem afterTrace_edges (s : State) : afterTrace s ws = { s with ch := channelsAfterEdges ws s.ch } := by
  induction ws generalizing s with
  | nil => rfl
  | cons w ws ih =>
    obtain ⟨hw, hws⟩ := List.forall_mem_cons.mp hedges
    rw [afterTrace_cons, feed_of_interrupt hw, ih hws]
    rfl

/-- Step by step, a row of edge words leaves what the trace of them leaves on the state with those words taken. -/
theorem runSteps_edges {s : State} {rest : List EventWord} (hinput : s.input = ws ++ rest) :
    runSteps ws.length s =
      .next (afterTrace { s with input := rest, delivered := s.delivered + ws.length } ws) := by
  induction ws generalizing s with
  | nil => cases s; cases hinput; rfl
  | cons w ws ih =>
    obtain ⟨hw, hws⟩ := List.forall_mem_cons.mp hedges
    rw [List.length_cons, runSteps_succ_of_next _ hinput (exec_interrupt hw _), ih hws rfl, afterTrace_cons,
      feed_of_interrupt hw]
    simp only [State.take, Nat.add_assoc, Nat.add_comm ws.length 1]

end edgeRows

/-! ### A frame is the run of its words -/

theorem clockWord_injective : Function.Injective clockWord := by
  intro a b hab
  have hlevel : dataLevel a = dataLevel b := by simpa using congrArg decodeWord hab
  rw [← dataBit_dataLevel a, hlevel, dataBit_dataLevel]

theorem assertWord_injective : Function.Injective assertWord := by
  intro a b hab
  simpa using congrArg decodeWord hab

/-- A frame's words determine its channel and its bits. -/
theorem frameWords_inj {c c' : Channel} {bits bits' : List Bool} (h : frameWords c bits = frameWords c' bits') :
    c = c' ∧ bits = bits' := by
  obtain ⟨hassert, hbody⟩ := List.cons.inj h
  exact ⟨assertWord_injective hassert, List.map_injective_iff.mpr clockWord_injective (List.append_inj_left' hbody rfl)⟩

theorem frameWords_length (c : Channel) (bits : List Bool) : (frameWords c bits).length = bits.length + 2 := by
  simp [frameWords]

/-- A frame's words are edges, all of them. -/
theorem frameWords_edges {c : Channel} {bits : List Bool} :
    ∀ w ∈ frameWords c bits, contextOf (decodeWord w) = some .interrupt := by
  intro w hw
  simp only [frameWords, List.mem_cons, List.mem_append, List.mem_map, List.not_mem_nil, or_false] at hw
  obtain rfl | ⟨b, -, rfl⟩ | rfl := hw
  · rw [decodeWord_assertWord]; rfl
  · rw [decodeWord_clockWord]; rfl
  · rw [decodeWord_deassertWord]; rfl

/-- An instruction spelled as a frame runs as the frame of that channel and those bits (R75 to R77). -/
theorem exec_of_encode_eq_frameWords {i : Instr} {c : Channel} {bits : List Bool} (h : encode i = frameWords c bits)
    (s : State) : exec i s = .next (s.frame c bits) := by
  cases hcount : Laws.frameBitCount i with
  | none =>
    obtain ⟨w, hword, -⟩ := exists_word_of_event hcount
    have hlength := congrArg List.length (hword.symm.trans h)
    rw [frameWords_length, List.length_singleton] at hlength
    omega
  | some n =>
    cases i with
    | frameControl c' lead value => obtain ⟨rfl, rfl⟩ := frameWords_inj h; rfl
    | frameDisplay c' lead value => obtain ⟨rfl, rfl⟩ := frameWords_inj h; rfl
    | frameDiscard c' bits' => obtain ⟨rfl, rfl⟩ := frameWords_inj h; rfl
    | _ => cases hcount

/-- Settles O25: the steps run the frame's words as a trace, and that trace is the frame operation. -/
theorem frameIsTheRunOfItsWords : Obligations.FrameIsTheRunOfItsWords := by
  rintro i rest s ⟨c, bits, hwords⟩ hinput
  rw [exec_of_encode_eq_frameWords hwords]
  rw [hwords] at hinput ⊢
  rw [runSteps_edges frameWords_edges hinput, frameWords, afterTrace_frameWords]

end Sys2Proof.Machine

/-! PROOFS of 40_channel_decoder.md, 20_memory.md and 30_encoding.md section 3. A delivered word acts on each channel
decoder by itself: an edge by its operation, any other word not at all. So what a trace does to a channel is a fold over
that channel alone, and the registers and their counters move only where a deassert commits them. -/

namespace Sys2Proof.Machine

/-! ### One word on one channel -/

/-- What every word of a trace keeps, the trace keeps. -/
theorem afterTrace_keeps {α : Type} {part : State → α} {ws : List EventWord}
    (h : ∀ w ∈ ws, ∀ s, part (feed s w).1 = part s) (s : State) : part (afterTrace s ws) = part s := by
  induction ws generalizing s with
  | nil => rfl
  | cons w ws ih =>
    obtain ⟨hw, hws⟩ := List.forall_mem_cons.mp h
    rw [afterTrace_cons, ih hws, hw]

/-- What an event does to channel `c`'s decoder (R62, R100 to R106). -/
def ChannelDecoder.onEvent (c : Channel) (x : ChannelDecoder) : Instr → ChannelDecoder
  | .sckRise v => x.clock (dataBit v)
  | .csAssert c' => if c = c' then x.assert else x
  | .csDeassert c' => if c = c' then x.deassert else x
  | _ => x

theorem ChannelDecoder.onEvent_of_not_edge {i : Instr} (h : contextOf i ≠ some .interrupt) (c : Channel)
    (x : ChannelDecoder) : x.onEvent c i = x := by
  cases i with
  | sckRise v => exact absurd rfl h
  | csAssert c' => exact absurd rfl h
  | csDeassert c' => exact absurd rfl h
  | _ => rfl

theorem PerChannel.get_set {α : Type} (p : PerChannel α) (c c' : Channel) (x : α) :
    (p.set c' x).get c = if c = c' then x else p.get c := by
  by_cases h : c = c'
  · rw [if_pos h, h, PerChannel.get_set_same]
  · rw [if_neg h, PerChannel.get_set_of_ne _ _ h]

theorem frameBitCount_decodeWord (w : EventWord) : Laws.frameBitCount (decodeWord w) = none := by
  revert w
  decide

/-- The edge words are the clock, assert and deassert words (R71). -/
theorem edgeWord_cases {w : EventWord} (h : contextOf (decodeWord w) = some .interrupt) :
    (∃ d, w = clockWord d) ∨ (∃ c, w = assertWord c) ∨ (∃ c, w = deassertWord c) := by
  have hcount := frameBitCount_decodeWord w
  cases hw : decodeWord w with
  | sckRise v => exact .inl ⟨_, eq_clockWord hw⟩
  | csAssert c => exact .inr (.inl ⟨c, eq_assertWord hw⟩)
  | csDeassert c => exact .inr (.inr ⟨c, eq_deassertWord hw⟩)
  | frameControl c lead value => rw [hw] at hcount; cases hcount
  | frameDisplay c lead value => rw [hw] at hcount; cases hcount
  | frameDiscard c bits => rw [hw] at hcount; cases hcount
  | _ => rw [hw] at h; cases h

/-- A word that is no edge writes no channel, whether it completes or is refused (R51, R74). -/
theorem feed_ch_of_not_edge {w : EventWord} (h : contextOf (decodeWord w) ≠ some .interrupt) (s : State) :
    (feed s w).1.ch = s.ch := by
  match hc : contextOf (decodeWord w) with
  | some .interrupt => exact absurd hc h
  | none => rw [feed_of_refused (exec_refused_of_noContext hc s)]
  | some .polling =>
    obtain ⟨t, ht⟩ | ⟨hrefused, -⟩ := exec_of_polling hc s
    · rw [feed_of_next ht]
      exact exec_polling_ch hc ht
    · rw [feed_of_refused hrefused]

/-- A delivered word acts on each channel by itself. -/
theorem feed_ch_get (s : State) (w : EventWord) (c : Channel) :
    (feed s w).1.ch.get c = (s.ch.get c).onEvent c (decodeWord w) := by
  by_cases hedge : contextOf (decodeWord w) = some .interrupt
  · obtain ⟨d, rfl⟩ | ⟨c', rfl⟩ | ⟨c', rfl⟩ := edgeWord_cases hedge
    · rw [feed_clockWord, decodeWord_clockWord, State.sckRise_ch_get, ChannelDecoder.onEvent, dataBit_dataLevel]
    · rw [feed_assertWord, decodeWord_assertWord, State.csAssert_ch, PerChannel.get_set, ChannelDecoder.onEvent]
      split
      · next h => rw [h]
      · rfl
    · rw [feed_deassertWord, decodeWord_deassertWord, State.csDeassert_ch, PerChannel.get_set, ChannelDecoder.onEvent]
      split
      · next h => rw [h]
      · rfl
  · rw [feed_ch_of_not_edge hedge, ChannelDecoder.onEvent_of_not_edge hedge]

/-- A trace acts on each channel by itself, word by word. -/
theorem afterTrace_ch_get (s : State) (ws : List EventWord) (c : Channel) :
    (afterTrace s ws).ch.get c = ws.foldl (fun x w => x.onEvent c (decodeWord w)) (s.ch.get c) := by
  induction ws generalizing s with
  | nil => rfl
  | cons w ws ih => rw [afterTrace_cons, ih, feed_ch_get, List.foldl_cons]

/-- Settles O28: a channel after a trace is a fold that starts from that channel. -/
theorem channelsAreIndependent : Obligations.ChannelsAreIndependent := by
  intro c ws s s' h
  rw [afterTrace_ch_get, afterTrace_ch_get, h]

/-! ### Registers and counters -/

/-- Everything an operation that answers a next state can do to the channels. -/
theorem exec_next_ch_cases {i : Instr} {s t : State} (h : exec i s = .next t) :
    (∃ c, i = .csDeassert c ∧ t = s.csDeassert c) ∨
    t.ch = s.ch ∨
    (∃ d, t = s.sckRise d) ∨
    (∃ c, t = s.csAssert c) ∨
    (∃ c bits, encode i = frameWords c bits ∧ t = s.frame c bits) := by
  obtain ⟨v, rfl, rfl⟩ | ⟨c, rfl, rfl⟩ | ⟨c, rfl, rfl⟩ | ⟨c, rfl, rfl⟩ | ⟨c, rfl, rfl⟩ | ⟨rfl, -, rfl⟩ |
    ⟨rfl, -, rfl⟩ | ⟨c, lead, value, rfl, rfl⟩ | ⟨c, lead, value, rfl, rfl⟩ | ⟨c, bits, rfl, rfl⟩ := exec_next_cases h
  · exact .inr (.inr (.inl ⟨_, rfl⟩))
  · exact .inr (.inr (.inr (.inl ⟨_, rfl⟩)))
  · exact .inl ⟨c, rfl, rfl⟩
  · exact .inr (.inl rfl)
  · exact .inr (.inl rfl)
  · exact .inr (.inl (s.publish_ch _ _))
  · exact .inr (.inl (s.publish_ch _ _))
  · exact .inr (.inr (.inr (.inr ⟨c, _, rfl, rfl⟩)))
  · exact .inr (.inr (.inr (.inr ⟨c, _, rfl, rfl⟩)))
  · exact .inr (.inr (.inr (.inr ⟨c, _, rfl, rfl⟩)))

/-- A decoder that is not selected sees no clock events (R106). -/
theorem ChannelDecoder.afterClocks_of_not_sel {x : ChannelDecoder} (h : x.sel = false) (bits : List Bool) :
    x.afterClocks bits = x :=
  if_neg (by simp [h])

theorem ChannelDecoder.afterClocks_of_sel {x : ChannelDecoder} (h : x.sel = true) (bits : List Bool) :
    x.afterClocks bits =
      { x with sb := shiftInBits x.sb bits, bc := x.bc + BitVec.ofNat Config.bcW bits.length } :=
  if_pos h

@[simp] theorem ChannelDecoder.afterClocks_nil (x : ChannelDecoder) : x.afterClocks [] = x := by
  cases h : x.sel with
  | false => exact ChannelDecoder.afterClocks_of_not_sel h []
  | true => simp [ChannelDecoder.afterClocks_of_sel h]

/-- A part of a decoder that nothing writes but a deassert at length `n`. -/
structure ChannelDecoder.CommitsOnlyAt {α : Type} (n : Nat) (part : ChannelDecoder → α) : Prop where
  assert : ∀ x, part x.assert = part x
  clock : ∀ x d, part (x.clock d) = part x
  deassert : ∀ x, x.bc.toNat ≠ n → part x.deassert = part x

/-- The control register with its counter. -/
def ChannelDecoder.controlPart (x : ChannelDecoder) : CtrlWord × UpdateCount :=
  (x.ctrl, x.nCtrl)

/-- The display register with its counter. -/
def ChannelDecoder.displayPart (x : ChannelDecoder) : DispWord × UpdateCount :=
  (x.disp, x.nDisp)

theorem ChannelDecoder.controlPart_commits : ChannelDecoder.CommitsOnlyAt 8 ChannelDecoder.controlPart where
  assert := fun _ => rfl
  clock := fun x d => by simp [ChannelDecoder.controlPart]
  deassert := fun x h => by
    obtain ⟨h8, -⟩ | ⟨-, e⟩ | ⟨-, -, e⟩ := x.deassert_cases
    · exact absurd h8 h
    · rw [e]; rfl
    · rw [e]; rfl

theorem ChannelDecoder.displayPart_commits : ChannelDecoder.CommitsOnlyAt 24 ChannelDecoder.displayPart where
  assert := fun _ => rfl
  clock := fun x d => by simp [ChannelDecoder.displayPart]
  deassert := fun x h => by
    obtain ⟨-, e⟩ | ⟨h24, -⟩ | ⟨-, -, e⟩ := x.deassert_cases
    · rw [e]; rfl
    · exact absurd h24 h
    · rw [e]; rfl

namespace ChannelDecoder.CommitsOnlyAt
variable {α : Type} {n : Nat} {part : ChannelDecoder → α} (hpart : ChannelDecoder.CommitsOnlyAt n part)
include hpart

theorem part_onEvent {c : Channel} {i : Instr} (h : i ≠ .csDeassert c) (x : ChannelDecoder) :
    part (x.onEvent c i) = part x := by
  cases i with
  | sckRise v => exact hpart.clock x _
  | csAssert c' =>
    rw [ChannelDecoder.onEvent]
    split
    · exact hpart.assert x
    · rfl
  | csDeassert c' => rw [ChannelDecoder.onEvent, if_neg (fun hc => h (by rw [hc]))]
  | _ => rfl

/-- A trace without a deassert of the channel keeps the part. -/
theorem part_afterTrace {c : Channel} {ws : List EventWord} (h : ∀ w ∈ ws, decodeWord w ≠ .csDeassert c) (s : State) :
    part ((afterTrace s ws).ch.get c) = part (s.ch.get c) := by
  refine afterTrace_keeps (part := fun u => part (u.ch.get c)) (fun w hw u => ?_) s
  rw [feed_ch_get, hpart.part_onEvent (h w hw)]

theorem part_afterClocks (x : ChannelDecoder) (bits : List Bool) : part (x.afterClocks bits) = part x := by
  induction bits generalizing x with
  | nil => rw [ChannelDecoder.afterClocks_nil]
  | cons d bits ih => rw [← ChannelDecoder.afterClocks_cons, ih, hpart.clock]

/-- A frame that writes the part has length `n` modulo 256 (R75 to R77). -/
theorem frame_length_of_ne {x : ChannelDecoder} {bits : List Bool}
    (h : part (x.assert.afterClocks bits).deassert ≠ part x) : bits.length % 256 = n := by
  by_contra hlen
  refine h ?_
  rw [hpart.deassert _ (by simpa [ChannelDecoder.assert_afterClocks] using hlen), hpart.part_afterClocks,
    hpart.assert]

/-- An operation that changed the part of channel `c` committed it: a deassert of `c` at length `n`, or a frame of `c`
of that length (R102). -/
theorem commit_of_ne {i : Instr} {s t : State} {c : Channel} (ht : exec i s = .next t)
    (hne : part (t.ch.get c) ≠ part (s.ch.get c)) :
    (i = .csDeassert c ∧ (s.ch.get c).bc.toNat = n) ∨
      ∃ bits, encode i = frameWords c bits ∧ bits.length % 256 = n := by
  obtain ⟨c', rfl, rfl⟩ | hpoll | ⟨d, rfl⟩ | ⟨c', rfl⟩ | ⟨c', bits, hwords, rfl⟩ := exec_next_ch_cases ht
  · rw [State.csDeassert_ch, PerChannel.get_set] at hne
    split at hne
    · next hc =>
      subst hc
      exact .inl ⟨rfl, by_contra fun hbc => hne (hpart.deassert _ hbc)⟩
    · exact absurd rfl hne
  · exact absurd (by rw [hpoll]) hne
  · exact absurd (by rw [State.sckRise_ch_get, hpart.clock]) hne
  · rw [State.csAssert_ch, PerChannel.get_set] at hne
    split at hne
    · next hc => exact absurd (by rw [hpart.assert, hc]) hne
    · exact absurd rfl hne
  · by_cases hc : c = c'
    · subst hc
      rw [State.frame_ch_get_self] at hne
      exact .inr ⟨bits, hwords, hpart.frame_length_of_ne hne⟩
    · rw [State.frame_ch_get_of_ne _ _ _ hc, hpart.part_afterClocks] at hne
      exact absurd rfl hne

end ChannelDecoder.CommitsOnlyAt

/-- Settles O26: the two registers, each with its counter, are the parts committed at lengths 8 and 24. -/
theorem registersChangeOnlyByCommits : Obligations.RegistersChangeOnlyByCommits := by
  intro i s t c ht
  refine ⟨fun hne => ChannelDecoder.controlPart_commits.commit_of_ne ht fun heq => ?_,
    fun hne => ChannelDecoder.displayPart_commits.commit_of_ne ht fun heq => ?_⟩
  · obtain ⟨hctrl, hcount⟩ := Prod.mk.inj heq
    exact hne.elim (absurd hctrl) (absurd hcount)
  · obtain ⟨hdisp, hcount⟩ := Prod.mk.inj heq
    exact hne.elim (absurd hdisp) (absurd hcount)

/-- Settles O27: both parts survive any trace without the channel's deassert. -/
theorem registersHoldBetweenDeasserts : Obligations.RegistersHoldBetweenDeasserts := by
  intro c ws s h
  obtain ⟨hctrl, hnCtrl⟩ := Prod.mk.inj (ChannelDecoder.controlPart_commits.part_afterTrace h s)
  obtain ⟨hdisp, hnDisp⟩ := Prod.mk.inj (ChannelDecoder.displayPart_commits.part_afterTrace h s)
  exact ⟨hctrl, hdisp, hnCtrl, hnDisp⟩

/-! ### Single edges -/

/-- Settles O11: at length 24 the deasserted decoder is the one the display commit leaves, which copies the whole shift
buffer. -/
theorem deassertAtTwentyFourCommitsDisplay : Obligations.DeassertAtTwentyFourCommitsDisplay := by
  intro c s h24
  rw [exec_csDeassert, ChannelDecoder.deassert_of_twentyFour _ h24, displayValue, BitVec.setWidth_eq, State.setCh]

/-- A clock event on a selected decoder as arithmetic: double and add the bit, and count (R106). -/
theorem ChannelDecoder.clock_toNat_of_sel {x : ChannelDecoder} (h : x.sel = true) (d : Bool) :
    (x.clock d).sb.toNat = (2 * x.sb.toNat + d.toNat) % 2 ^ 32 ∧ (x.clock d).bc.toNat = (x.bc.toNat + 1) % 2 ^ 8 := by
  rw [ChannelDecoder.clock_of_sel x d h]
  exact ⟨shiftIn_toNat x.sb d, BitVec.toNat_add x.bc 1⟩

theorem dataBit_toNat (v : Level) : (dataBit v).toNat = if v = .high then 1 else 0 := by
  cases v <;> rfl

/-- A clock event writes the shift buffer and the count alone (R106). -/
theorem ChannelDecoder.clock_eq (x : ChannelDecoder) (d : Bool) :
    x.clock d = { x with sb := (x.clock d).sb, bc := (x.clock d).bc } := by
  by_cases h : x.sel = true
  · rw [x.clock_of_sel d h]
  · rw [x.clock_of_not_sel d (Bool.eq_false_of_not_eq_true h)]

/-- Settles O13: each channel takes the clock step of its own decoder. -/
theorem clockShiftsTheSelectedChannels : Obligations.ClockShiftsTheSelectedChannels := by
  intro v s
  refine ⟨s.sckRise (dataBit v), rfl, rfl, fun c => ?_⟩
  rw [State.sckRise_ch_get, ← dataBit_toNat]
  exact ⟨ChannelDecoder.clock_of_not_sel _ _, fun hsel =>
    ⟨ChannelDecoder.clock_eq _ _, ChannelDecoder.clock_toNat_of_sel hsel _⟩⟩

/-- Settles O14: the two clock steps write different channels. -/
theorem clockDispatchOrderIsUnobservable : Obligations.ClockDispatchOrderIsUnobservable :=
  fun _ _ => rfl

theorem ChannelDecoder.clock_bc (x : ChannelDecoder) (d : Bool) :
    (x.clock d).bc = if x.sel = true then x.bc + 1 else x.bc := by
  unfold ChannelDecoder.clock
  split
  · rfl
  · rfl

/-- Settles O19: the events act on the channel in the order in which they come, and a clock event counts where the
channel is selected. -/
theorem coincidentEdgesDependOnTheirOrder : Obligations.CoincidentEdgesDependOnTheirOrder := by
  intro c b s
  refine ⟨?_, ?_, fun hsel => ?_, ?_⟩
  · simp [afterTrace_ch_get, ChannelDecoder.onEvent, ChannelDecoder.clock_bc]
  · simp [afterTrace_ch_get, ChannelDecoder.onEvent]
  · simp [afterTrace_ch_get, ChannelDecoder.onEvent, ChannelDecoder.clock_bc, hsel]
  · simp [afterTrace_ch_get, ChannelDecoder.onEvent, ChannelDecoder.clock_bc]

/-! ### Rows of clock events -/

/-- Settles O17: an unselected channel sees no clock event, and a deassert at count 0 only clears `sel`. -/
theorem frameUnderwayAtStartIsLost : Obligations.FrameUnderwayAtStartIsLost := by
  intro c bits s hsel hbc
  have hlost : (s.ch.get c).deassert = { s.ch.get c with sel := false } :=
    ChannelDecoder.deassert_of_glitch _ (by rw [hbc]; decide) (by rw [hbc]; decide)
  rw [afterTrace_append, afterTrace_clockWords, afterTrace_cons, feed_deassertWord, afterTrace_nil, State.csDeassert_ch,
    PerChannel.get_set_same, State.clocks_ch_get, ChannelDecoder.afterClocks_of_not_sel hsel, hlost, ← hsel]

/-- A second deassert commits again: the register keeps its value and its counter rises (R57, R102). -/
theorem ChannelDecoder.deassert_deassert (x : ChannelDecoder) :
    x.deassert.deassert = { x.deassert with
      nCtrl := if x.deassert.bc.toNat = 8 then x.deassert.nCtrl + 1 else x.deassert.nCtrl
      nDisp := if x.deassert.bc.toNat = 24 then x.deassert.nDisp + 1 else x.deassert.nDisp } := by
  have hbc : x.deassert.bc = x.bc := x.deassert_bc
  by_cases h8 : x.bc.toNat = 8
  · rw [x.deassert.deassert_of_eight (by rw [hbc, h8])]
    simp [x.deassert_of_eight h8, h8]
  · by_cases h24 : x.bc.toNat = 24
    · rw [x.deassert.deassert_of_twentyFour (by rw [hbc, h24])]
      simp [x.deassert_of_twentyFour h24, h24]
    · rw [x.deassert.deassert_of_glitch (by rwa [hbc]) (by rwa [hbc])]
      simp [x.deassert_of_glitch h8 h24, h8, h24]

/-- Settles O18: after a deassert the clock events pass the channel by, so the second one follows the first. -/
theorem secondDeassertRecommits : Obligations.SecondDeassertRecommits := by
  intro c bits s
  simp only [afterTrace_cons, feed_deassertWord, afterTrace_append, afterTrace_clockWords, afterTrace_nil,
    State.csDeassert_ch, PerChannel.get_set_same, State.clocks_ch_get]
  rw [ChannelDecoder.afterClocks_of_not_sel (ChannelDecoder.deassert_sel _), ChannelDecoder.deassert_deassert]

end Sys2Proof.Machine

/-! PROOFS of 30_encoding.md sections 2 and 3. Shifted in from zero, data bits spell their number, first bit most
significant (R79); a frame leaves that number in its own channel's shift buffer, commits by the count (R75 to R78), and
passes the other channel by or shifts the same bits into it (R62, R106). -/

namespace Sys2Proof

open Spec

/-! ### The number that bits spell -/

theorem bitsNumber_cons (b : Bool) (bits : List Bool) :
    bitsNumber (b :: bits) = b.toNat * 2 ^ bits.length + bitsNumber bits := by
  rw [bitsNumber, List.length_cons, Finset.sum_range_succ', Nat.add_comm]
  refine congrArg (_ + ·) (Finset.sum_congr rfl fun k _ => ?_)
  have hplace : bits.length + 1 - 1 - (k + 1) = bits.length - 1 - k := by omega
  rw [List.getD_cons_succ, hplace]

/-- The sum of R79 is what shifting the bits in one by one computes. -/
theorem bitsNumber_eq_bitsValue (bits : List Bool) : bitsNumber bits = bitsValue bits := by
  induction bits with
  | nil => rfl
  | cons b bits ih => rw [bitsNumber_cons, bitsValue_cons, ih]

/-- The assembly of R79, from any value. -/
theorem shiftInBits_toNat_eq_bitsNumber {w : Nat} (v : BitVec w) (bits : List Bool) :
    (shiftInBits v bits).toNat = (v.toNat * 2 ^ bits.length + bitsNumber bits) % 2 ^ w := by
  rw [bitsNumber_eq_bitsValue, shiftInBits_toNat]

/-- The assembly of R79, from zero. -/
theorem ofMsbFirst_eq_ofNat (w : Nat) (bits : List Bool) : ofMsbFirst w bits = BitVec.ofNat w (bitsNumber bits) := by
  apply BitVec.eq_of_toNat_eq
  simp [ofMsbFirst, shiftInBits_toNat_eq_bitsNumber]

theorem ofMsbFirst_toNat (w : Nat) (bits : List Bool) : (ofMsbFirst w bits).toNat = bitsNumber bits % 2 ^ w := by
  rw [ofMsbFirst_eq_ofNat, BitVec.toNat_ofNat]

/-- Clocking all bits of a narrower value in moves the old value above it (R78). -/
theorem shiftInBits_msbFirst_eq_append {m n : Nat} (a : BitVec (m + n)) (v : BitVec n) :
    shiftInBits a (msbFirst v n) = a.setWidth m ++ v := by
  apply BitVec.eq_of_getLsbD_eq
  intro i hi
  rw [shiftInBits_getLsbD, msbFirst_length, decide_eq_true hi, Bool.true_and, BitVec.getLsbD_append]
  by_cases hin : i < n
  · rw [if_pos hin, msbFirst_reverse_getD v n i hin]
    simp [hin]
  · have him : i - n < m := by omega
    simp [hin, him]

end Sys2Proof

namespace Sys2Proof.Machine

open Spec

/-! ### Frames -/

/-- Settles O15: the asserted channel assembles the bits from zero. -/
theorem clockedBitsAssembleMsbFirst : Obligations.ClockedBitsAssembleMsbFirst := by
  intro c bits s
  have hch : (afterTrace s (assertWord c :: bits.map clockWord)).ch.get c =
      { (s.ch.get c).assert with sb := ofMsbFirst Config.sbW bits, bc := BitVec.ofNat Config.bcW bits.length } := by
    rw [afterTrace_cons, feed_assertWord, afterTrace_clockWords, State.clocks_ch_get, State.csAssert_ch,
      PerChannel.get_set_same, ChannelDecoder.assert_afterClocks]
  simp only [hch]
  exact ⟨rfl, ofMsbFirst_toNat 32 bits, BitVec.toNat_ofNat bits.length 8⟩

/-- Clock events on a channel that is not the frame's (R62, R106). -/
theorem otherChannelClocked_afterClocks (x : ChannelDecoder) (bits : List Bool) :
    OtherChannelClocked x (x.afterClocks bits) bits := by
  refine ⟨fun hsel => ChannelDecoder.afterClocks_of_not_sel hsel bits, fun hsel => ?_⟩
  rw [ChannelDecoder.afterClocks_of_sel hsel]
  refine ⟨rfl, shiftInBits_toNat_eq_bitsNumber x.sb bits, ?_⟩
  rw [BitVec.toNat_add, BitVec.toNat_ofNat, Nat.add_mod_mod]

section frames
variable (s : State) (c : Channel) (bits : List Bool)

/-- The channel that is not the frame's sees its clock events only. -/
theorem State.frame_other :
    OtherChannelClocked (s.ch.get c.other) ((s.frame c bits).ch.get c.other) bits := by
  rw [State.frame_ch_get_of_ne s c bits c.other_ne]
  exact otherChannelClocked_afterClocks _ bits

theorem State.frame_sb_toNat : ((s.frame c bits).ch.get c).sb.toNat = bitsNumber bits % 2 ^ 32 := by
  rw [State.frame_sb, ofMsbFirst_toNat]

variable {bits}

/-- The channel after a frame of control length (R75, R103). -/
theorem State.frame_ch_get_of_control (h : bits.length % 256 = 8) :
    (s.frame c bits).ch.get c = { s.ch.get c with
      sel := false, sb := ofMsbFirst 32 bits, bc := 8#8, ctrl := controlValue (ofMsbFirst 32 bits)
      nCtrl := (s.ch.get c).nCtrl + 1 } := by
  have hbc : BitVec.ofNat Config.bcW bits.length = 8#8 := BitVec.eq_of_toNat_eq (by simpa using h)
  rw [State.frame_ch_get_self, ChannelDecoder.assert_afterClocks,
    ChannelDecoder.deassert_of_eight _ (by simpa using h), hbc]
  rfl

/-- The channel after a frame of display length (R76, R104). -/
theorem State.frame_ch_get_of_display (h : bits.length % 256 = 24) :
    (s.frame c bits).ch.get c = { s.ch.get c with
      sel := false, sb := ofMsbFirst 32 bits, bc := 24#8, disp := displayValue (ofMsbFirst 32 bits)
      nDisp := (s.ch.get c).nDisp + 1 } := by
  have hbc : BitVec.ofNat Config.bcW bits.length = 24#8 := BitVec.eq_of_toNat_eq (by simpa using h)
  rw [State.frame_ch_get_self, ChannelDecoder.assert_afterClocks,
    ChannelDecoder.deassert_of_twentyFour _ (by simpa using h), hbc]
  rfl

/-- The channel after a frame of any other length (R77, R105). -/
theorem State.frame_ch_get_of_discard (h8 : bits.length % 256 ≠ 8) (h24 : bits.length % 256 ≠ 24) :
    (s.frame c bits).ch.get c = { s.ch.get c with
      sel := false, sb := ofMsbFirst 32 bits, bc := BitVec.ofNat 8 bits.length } := by
  rw [State.frame_ch_get_self, ChannelDecoder.assert_afterClocks,
    ChannelDecoder.deassert_of_glitch _ (by simpa using h8) (by simpa using h24)]
  rfl

end frames

theorem controlValue_controlFrameBits (lead : List Bool) (value : CtrlWord) :
    controlValue (ofMsbFirst 32 (controlFrameBits lead value)) = value := by
  have happend : ofMsbFirst 32 (controlFrameBits lead value) = (ofMsbFirst 32 lead).setWidth 24 ++ value := by
    rw [ofMsbFirst, controlFrameBits, shiftInBits_append]
    exact shiftInBits_msbFirst_eq_append (m := 24) _ value
  rw [happend, controlValue]
  exact BitVec.setWidth_append_eq_right

theorem ofMsbFirst_displayFrameBits (lead : List Bool) (value : DispPayload) :
    ofMsbFirst 32 (displayFrameBits lead value) = BitVec.ofNat 8 (bitsNumber lead) ++ value := by
  have hlead : (ofMsbFirst 32 lead).setWidth 8 = BitVec.ofNat 8 (bitsNumber lead) := by
    rw [ofMsbFirst_eq_ofNat, BitVec.setWidth_ofNat_of_le (by decide)]
  rw [ofMsbFirst, displayFrameBits, shiftInBits_append, ← hlead]
  exact shiftInBits_msbFirst_eq_append (m := 8) _ value

/-- Settles O20: the control commit takes the last eight bits, which are the value's. -/
theorem controlFrameWritesItsValue : Obligations.ControlFrameWritesItsValue := by
  intro c lead value s hwf
  have hlen : (controlFrameBits lead value).length % 256 = 8 := by
    have hlead := (leadWraps_iff lead).mp hwf
    rw [controlFrameBits_length]
    omega
  refine ⟨s.frame c (controlFrameBits lead value), rfl, s.frame_eq_withCh c _, ?_, s.frame_sb_toNat c _,
    s.frame_other c _⟩
  rw [State.frame_ch_get_of_control s c hlen, controlValue_controlFrameBits]

/-- Settles O21: the display commit takes the whole shift buffer, the value under the last eight bits before it. -/
theorem displayFrameWritesItsValue : Obligations.DisplayFrameWritesItsValue := by
  intro c lead value s hwf
  have hlen : (displayFrameBits lead value).length % 256 = 24 := by
    have hlead := (leadWraps_iff lead).mp hwf
    rw [displayFrameBits_length]
    omega
  have hdisp := State.frame_disp s c _ hlen
  refine ⟨s.frame c (displayFrameBits lead value), rfl, s.frame_eq_withCh c _, ?_, hdisp, ?_, s.frame_other c _⟩
  · rw [State.frame_ch_get_of_display s c hlen]
  · rw [hdisp, State.frame_sb]
    exact ofMsbFirst_displayFrameBits lead value

/-- Settles O22: a discard only clears `sel`, over the assembled bits and their count. -/
theorem discardedFrameChangesNoRegister : Obligations.DiscardedFrameChangesNoRegister := by
  intro c bits s hwf
  obtain ⟨h8, h24⟩ := (isDiscardLength_iff _).mp hwf
  have hch := State.frame_ch_get_of_discard s c h8 h24
  refine ⟨s.frame c bits, rfl, s.frame_eq_withCh c _, ?_, s.frame_sb_toNat c _, ?_, s.frame_other c _⟩
  · rw [hch]
  · rw [hch, BitVec.toNat_ofNat]

end Sys2Proof.Machine

/-! PROOFS of 40_channel_decoder.md section 3, 45_publication.md and 20_memory.md section 2. A read copies a register into
its latch, and nothing but another read of that register writes the latch (R32, R108, R109); a publish depends on the
latches alone, so it is idempotent until the next read (R201 to R203). -/

namespace Sys2Proof.Machine

/-! ### The poll agent's words -/

/-- Settles O36: a read is the replacement of its channel's latches. -/
theorem readsLatchTheRegister : Obligations.ReadsLatchTheRegister :=
  fun _ _ => ⟨rfl, rfl⟩

/-- Settles O39: the publish runs where its latches are loaded, and then updates the sink. -/
theorem publishTimeEmitsTheFormat : Obligations.PublishTimeEmitsTheFormat := by
  intro s
  rw [← timeLoaded_iff]
  refine ⟨fun hloaded => ?_, execPublishTime_of_not_loaded s⟩
  rw [execPublishTime_of_loaded s hloaded, State.publish_time_eq, State.timeText]

/-- Settles O40: as for the time, with the right display latch needed too. -/
theorem publishStatusEmitsTheFormat : Obligations.PublishStatusEmitsTheFormat := by
  intro s
  rw [← statusLoaded_iff]
  refine ⟨fun hloaded => ?_, execPublishStatus_of_not_loaded s⟩
  rw [execPublishStatus_of_loaded s hloaded, State.publish_status_eq, State.statusText]

theorem decodeWord_readCtrlWord (c : Channel) : decodeWord (eventWord 2 c .low) = .readCtrl c := by
  cases c <;> rfl

theorem decodeWord_readDispWord (c : Channel) : decodeWord (eventWord 3 c .low) = .readDisp c := by
  cases c <;> rfl

section feeds
variable {s : State} {w : EventWord}

theorem feed_of_readCtrl {c : Channel} (h : decodeWord w = .readCtrl c) : feed s w = (s.readCtrl c, none) :=
  feed_of_next (by rw [h]; rfl)

theorem feed_of_readDisp {c : Channel} (h : decodeWord w = .readDisp c) : feed s w = (s.readDisp c, none) :=
  feed_of_next (by rw [h]; rfl)

theorem feed_of_publishTime (h : decodeWord w = .publishTime) (hloaded : timeLoaded s = true) :
    feed s w = (s.publish .time s.timeText, none) :=
  feed_of_next (by rw [h, execPublishTime_of_loaded s hloaded])

theorem feed_of_publishStatus (h : decodeWord w = .publishStatus) (hloaded : statusLoaded s = true) :
    feed s w = (s.publish .status s.statusText, none) :=
  feed_of_next (by rw [h, execPublishStatus_of_loaded s hloaded])

theorem feed_of_publishTime_not_loaded (h : decodeWord w = .publishTime) (hloaded : ¬ timeLoaded s = true) :
    feed s w = (s, some .snapshotNotLoaded) :=
  feed_of_refused (by rw [h, execPublishTime_of_not_loaded s hloaded])

theorem feed_of_publishStatus_not_loaded (h : decodeWord w = .publishStatus) (hloaded : ¬ statusLoaded s = true) :
    feed s w = (s, some .snapshotNotLoaded) :=
  feed_of_refused (by rw [h, execPublishStatus_of_not_loaded s hloaded])

end feeds

/-! ### Latches -/

/-- Settles O37: the events between the reads replace the channels alone, so the first latch stays and the second read
sees the channels after them. -/
theorem tornReadPairsOldAndNew : Obligations.TornReadPairsOldAndNew := by
  intro bus s hbus
  have hread : afterTrace s (assemble [.rdc .L]) = s.readCtrl .L :=
    congrArg Prod.fst (feed_of_readCtrl (decodeWord_readCtrlWord .L))
  have hrun : afterTrace s (assemble [.rdc .L] ++ bus ++ assemble [.rdd .L]) =
      State.readDisp .L { s.readCtrl .L with ch := channelsAfterEdges bus s.ch } := by
    rw [afterTrace_append, afterTrace_append, hread, afterTrace_edges hbus]
    exact congrArg Prod.fst (feed_of_readDisp (decodeWord_readDispWord .L))
  simp only [hrun, afterTrace_edges hbus s]
  exact ⟨rfl, rfl, rfl, rfl⟩

/-- What a word does to the latches: a read writes its own channel's, and nothing else writes any (R32). -/
theorem feed_snap_cases (s : State) (w : EventWord) :
    (∃ c, decodeWord w = .readCtrl c ∧ (feed s w).1 = s.readCtrl c) ∨
    (∃ c, decodeWord w = .readDisp c ∧ (feed s w).1 = s.readDisp c) ∨
    (feed s w).1.snap = s.snap := by
  match hc : contextOf (decodeWord w) with
  | none => exact .inr (.inr (by rw [feed_of_refused (exec_refused_of_noContext hc s)]))
  | some .interrupt => exact .inr (.inr (by rw [feed_of_interrupt hc]))
  | some .polling =>
    obtain ⟨c, hw⟩ | ⟨c, hw⟩ | hw | hw := polling_cases hc
    · exact .inl ⟨c, hw, by rw [feed_of_readCtrl hw]⟩
    · exact .inr (.inl ⟨c, hw, by rw [feed_of_readDisp hw]⟩)
    · refine .inr (.inr ?_)
      by_cases hloaded : timeLoaded s = true
      · rw [feed_of_publishTime hw hloaded, State.publish_snap]
      · rw [feed_of_publishTime_not_loaded hw hloaded]
    · refine .inr (.inr ?_)
      by_cases hloaded : statusLoaded s = true
      · rw [feed_of_publishStatus hw hloaded, State.publish_snap]
      · rw [feed_of_publishStatus_not_loaded hw hloaded]

/-- The control latch with its loaded flag. -/
def Snapshot.ctrlLatch (x : Snapshot) : CtrlWord × Bool :=
  (x.ctrl, x.ldCtrl)

/-- The display latch with its loaded flag. -/
def Snapshot.dispLatch (x : Snapshot) : DispWord × Bool :=
  (x.disp, x.ldDisp)

theorem feed_ctrlLatch {w : EventWord} {c : Channel} (h : decodeWord w ≠ .readCtrl c) (s : State) :
    ((feed s w).1.snap.get c).ctrlLatch = (s.snap.get c).ctrlLatch := by
  obtain ⟨c', hw, e⟩ | ⟨c', -, e⟩ | e := feed_snap_cases s w
  · rw [e, State.readCtrl_snap, PerChannel.get_set_of_ne _ _ fun hc => h (by rw [hw, hc])]
  · rw [e, State.readDisp_snap, PerChannel.get_set]
    split
    · next hc => subst hc; rfl
    · rfl
  · rw [e]

theorem feed_dispLatch {w : EventWord} {c : Channel} (h : decodeWord w ≠ .readDisp c) (s : State) :
    ((feed s w).1.snap.get c).dispLatch = (s.snap.get c).dispLatch := by
  obtain ⟨c', -, e⟩ | ⟨c', hw, e⟩ | e := feed_snap_cases s w
  · rw [e, State.readCtrl_snap, PerChannel.get_set]
    split
    · next hc => subst hc; rfl
    · rfl
  · rw [e, State.readDisp_snap, PerChannel.get_set_of_ne _ _ fun hc => h (by rw [hw, hc])]
  · rw [e]

/-- Settles O38: the read fills the latch, and the words after it keep it. -/
theorem latchKeepsTheMostRecentRead : Obligations.LatchKeepsTheMostRecentRead := by
  intro c ws s
  refine ⟨fun h => ?_, fun h => ?_⟩
  · have hkept := afterTrace_keeps (part := fun u => (u.snap.get c).ctrlLatch) (fun w hw => feed_ctrlLatch (h w hw))
      (s.readCtrl c)
    rw [afterTrace_cons, feed_of_readCtrl (decodeWord_readCtrlWord c)]
    simpa [Snapshot.ctrlLatch] using hkept
  · have hkept := afterTrace_keeps (part := fun u => (u.snap.get c).dispLatch) (fun w hw => feed_dispLatch (h w hw))
      (s.readDisp c)
    rw [afterTrace_cons, feed_of_readDisp (decodeWord_readDispWord c)]
    simpa [Snapshot.dispLatch] using hkept

/-! ### Publishing again -/

theorem Sink.publish_publish (k : Sink) (x : String) : (k.publish x).publish x = k.publish x :=
  if_pos (k.publish_last x)

section republish
variable {s : State}

theorem afterTrace_pubt (h : timeLoaded s = true) :
    afterTrace s (assemble [.pubt]) = s.publish .time s.timeText :=
  congrArg Prod.fst (feed_of_publishTime rfl h)

theorem afterTrace_pubs (h : statusLoaded s = true) :
    afterTrace s (assemble [.pubs]) = s.publish .status s.statusText :=
  congrArg Prod.fst (feed_of_publishStatus rfl h)

end republish

/-- Settles O41: the edges leave the latches, so the second publish offers the sink the string it published last. -/
theorem republishWithoutReadEmitsNothing : Obligations.RepublishWithoutReadEmitsNothing := by
  intro bus s hbus
  refine ⟨fun hloaded => ?_, fun hloaded => ?_⟩
  · rw [afterTrace_append, afterTrace_append, afterTrace_pubt hloaded, afterTrace_edges hbus]
    refine (congrArg State.time (afterTrace_pubt ?_)).trans ?_
    · exact hloaded
    · exact Sink.publish_publish s.time s.timeText
  · rw [afterTrace_append, afterTrace_append, afterTrace_pubs hloaded, afterTrace_edges hbus]
    refine (congrArg State.status (afterTrace_pubs ?_)).trans ?_
    · exact hloaded
    · exact Sink.publish_publish s.status s.statusText

end Sys2Proof.Machine

/-! PROOFS of 70_reset_and_hazards.md, 10_state.md and 45_publication.md: what holds at reset and is kept by every step.
The invariant speaks of latches and sinks: an edge touches neither, a read fills a latch, a publish runs from loaded
latches and offers its sink a formatted string. -/

namespace Sys2Proof.Machine

/-! ### Reset -/

/-- Settles O1: reset's fields, as they are written. -/
theorem resetGivesTheStatedValues : Obligations.ResetGivesTheStatedValues := by
  refine ⟨fun c => ?_, fun c => ?_, fun n => ?_, rfl, rfl⟩
  · cases c <;> rfl
  · cases c <;> rfl
  · cases n <;> rfl

/-- Settles O42: the canonical tick from reset, run. -/
theorem firstTickPublishesDoorOpen : Obligations.FirstTickPublishesDoorOpen := by
  unfold Obligations.FirstTickPublishesDoorOpen
  decide

/-- Settles O55: nothing is read and nothing is published at reset. -/
theorem resetMeetsTheInvariant : Obligations.ResetMeetsTheInvariant where
  snap := fun c => by cases c <;> exact Snapshot.reset_consistent
  sink := fun n => by cases n <;> exact Sink.reset_consistent
  time_loaded := fun h => absurd rfl h
  status_loaded := fun h => absurd rfl h
  time_formatted := fun _ hx => nomatch hx
  status_formatted := fun _ hx => nomatch hx

/-! ### The invariant under each operation -/

namespace State.Inv
variable {s t : State} (hinv : s.Inv)
include hinv

/-- The invariant speaks of the latches and the sinks alone. -/
theorem congr (hsnap : t.snap = s.snap) (htime : t.time = s.time) (hstatus : t.status = s.status) : t.Inv where
  snap := fun c => by rw [hsnap]; exact hinv.snap c
  sink := fun n => by
    cases n with
    | time => rw [State.sink_time, htime]; exact hinv.sink .time
    | status => rw [State.sink_status, hstatus]; exact hinv.sink .status
  time_loaded := fun h => by
    rw [timeLoaded_congr hsnap]
    exact hinv.time_loaded (by rwa [htime] at h)
  status_loaded := fun h => by
    rw [statusLoaded_congr hsnap]
    exact hinv.status_loaded (by rwa [hstatus] at h)
  time_formatted := fun x hx => hinv.time_formatted x (by rwa [htime] at hx)
  status_formatted := fun x hx => hinv.status_formatted x (by rwa [hstatus] at hx)

/-- New latches for a channel that are consistent and at least as loaded as the old ones (R32). -/
theorem setSnap {c : Channel} {k : Snapshot} (hk : k.Consistent) (hctrl : (s.snap.get c).ldCtrl = true → k.ldCtrl = true)
    (hdisp : (s.snap.get c).ldDisp = true → k.ldDisp = true) : (s.setSnap c k).Inv where
  snap := fun c' => by
    rw [State.setSnap_snap, PerChannel.get_set]
    split
    · exact hk
    · exact hinv.snap c'
  sink := hinv.sink
  time_loaded := fun h => by
    have hold := (timeLoaded_iff s).mp (hinv.time_loaded h)
    rw [timeLoaded_iff]
    cases c with
    | L => exact hold.imp hctrl hdisp
    | R => exact hold
  status_loaded := fun h => by
    have hold := (statusLoaded_iff s).mp (hinv.status_loaded h)
    rw [statusLoaded_iff]
    cases c with
    | L => exact hold.imp hctrl (And.imp_left hdisp)
    | R => exact hold.imp_right (And.imp_right hdisp)
  time_formatted := hinv.time_formatted
  status_formatted := hinv.status_formatted

theorem readCtrl (c : Channel) : (s.readCtrl c).Inv :=
  hinv.setSnap ⟨(nomatch ·), (hinv.snap c).disp_unread⟩ (fun _ => rfl) id

theorem readDisp (c : Channel) : (s.readDisp c).Inv :=
  hinv.setSnap ⟨(hinv.snap c).ctrl_unread, (nomatch ·)⟩ id fun _ => rfl

/-- Publishing the time from loaded latches (R200 to R202). -/
theorem publishTime (hloaded : timeLoaded s = true) : (s.publish .time s.timeText).Inv where
  snap := hinv.snap
  sink := fun n => by
    cases n with
    | time => exact Sink.publish_consistent (hinv.sink .time) s.timeText
    | status => exact hinv.sink .status
  time_loaded := fun _ => hloaded
  status_loaded := hinv.status_loaded
  time_formatted := fun x hx => by
    obtain hold | rfl := Sink.mem_publish_out hx
    · exact hinv.time_formatted x hold
    · exact ⟨_, _, rfl⟩
  status_formatted := hinv.status_formatted

/-- Publishing the status from loaded latches (R200, R201, R203). -/
theorem publishStatus (hloaded : statusLoaded s = true) : (s.publish .status s.statusText).Inv where
  snap := hinv.snap
  sink := fun n => by
    cases n with
    | time => exact hinv.sink .time
    | status => exact Sink.publish_consistent (hinv.sink .status) s.statusText
  time_loaded := hinv.time_loaded
  status_loaded := fun _ => hloaded
  time_formatted := hinv.time_formatted
  status_formatted := fun x hx => by
    obtain hold | rfl := Sink.mem_publish_out hx
    · exact hinv.status_formatted x hold
    · exact ⟨_, _, _, rfl⟩

/-- Taking a word from the queue is seen by no part of the invariant. -/
theorem take (rest : List EventWord) : (s.take rest).Inv :=
  hinv.congr rfl rfl rfl

/-- Every operation that answers a next state keeps the invariant. -/
theorem of_exec {i : Instr} (ht : exec i s = .next t) : t.Inv := by
  match hc : contextOf i with
  | none => cases (exec_refused_of_noContext hc s).symm.trans ht
  | some .interrupt =>
    cases (exec_interrupt hc s).symm.trans ht
    exact hinv.congr rfl rfl rfl
  | some .polling =>
    obtain ⟨c, rfl⟩ | ⟨c, rfl⟩ | rfl | rfl := polling_cases hc
    · cases ht; exact hinv.readCtrl c
    · cases ht; exact hinv.readDisp c
    · by_cases hloaded : timeLoaded s = true
      · cases (execPublishTime_of_loaded s hloaded).symm.trans ht
        exact hinv.publishTime hloaded
      · cases (execPublishTime_of_not_loaded s hloaded).symm.trans ht
    · by_cases hloaded : statusLoaded s = true
      · cases (execPublishStatus_of_loaded s hloaded).symm.trans ht
        exact hinv.publishStatus hloaded
      · cases (execPublishStatus_of_not_loaded s hloaded).symm.trans ht

/-- Every step that answers a next state keeps the invariant. -/
theorem of_step (ht : step s = .next t) : t.Inv := by
  obtain ⟨-, hidle⟩ | ⟨w, rest, -, hrun⟩ := step_cases s
  · cases hidle.symm.trans ht
    exact hinv
  · exact (hinv.take rest).of_exec (hrun.symm.trans ht)

end State.Inv

/-- Settles O56: a step idles or runs one operation on the state with its word taken. -/
theorem stepKeepsTheInvariant : Obligations.StepKeepsTheInvariant :=
  fun _ _ hinv ht => hinv.of_step ht

theorem Reachable.inv {s : State} (h : Reachable s) : s.Inv := by
  induction h with
  | reset => exact resetMeetsTheInvariant
  | deliver w _ ih => exact ih.congr rfl rfl rfl
  | step _ ht ih => exact ih.of_step ht
  | refused _ _ _ ih => exact ih.take _

/-- Settles O57: the invariant holds at reset and along every run, and the sinks' consistency is part of it. -/
theorem reachableStatesMeetTheInvariant : Obligations.ReachableStatesMeetTheInvariant :=
  fun _ h => ⟨h.inv, (h.inv.sink .time).no_repeat, (h.inv.sink .status).no_repeat⟩

/-! ### What no output depends on -/

/-- A decoder of channel `c` without its counters, and without the control register of the right channel. -/
def ChannelDecoder.outputView (c : Channel) (x : ChannelDecoder) : ChannelDecoder :=
  { x with ctrl := if c = .L then x.ctrl else 0, nCtrl := 0, nDisp := 0 }

/-- The latches of channel `c` without the control latch of the right channel. -/
def Snapshot.outputView (c : Channel) (x : Snapshot) : Snapshot :=
  { x with ctrl := if c = .L then x.ctrl else 0 }

/-- The part of the state that outputs and refusals can depend on. -/
def State.outputView (s : State) : State :=
  { ch := { L := s.ch.L.outputView .L, R := s.ch.R.outputView .R }
    snap := { L := s.snap.L.outputView .L, R := s.snap.R.outputView .R }
    time := s.time
    status := s.status
    input := []
    delivered := 0 }

section views
variable (s : State) (c : Channel)

@[simp] theorem State.outputView_ch_get : s.outputView.ch.get c = (s.ch.get c).outputView c := by
  cases c <;> rfl

@[simp] theorem State.outputView_outputView : s.outputView.outputView = s.outputView := rfl

/-- States that agree on what the view keeps have one view. -/
theorem State.outputView_eq {s t : State} (hch : ∀ c, (s.ch.get c).outputView c = (t.ch.get c).outputView c)
    (hsnap : ∀ c, (s.snap.get c).outputView c = (t.snap.get c).outputView c) (htime : s.time = t.time)
    (hstatus : s.status = t.status) : s.outputView = t.outputView := by
  have hL := hch .L
  have hR := hch .R
  have hsL := hsnap .L
  have hsR := hsnap .R
  simp only [PerChannel.get_L, PerChannel.get_R] at hL hR hsL hsR
  rw [State.outputView, State.outputView, hL, hR, hsL, hsR, htime, hstatus]

theorem State.sinks_eq_of_outputView_eq {s t : State} (h : s.outputView = t.outputView) :
    s.time = t.time ∧ s.status = t.status := by
  have htime := congrArg State.time h
  have hstatus := congrArg State.status h
  exact ⟨htime, hstatus⟩

/-- A deassert's commit, as far as the view shows it, reads only what the view keeps (R103, R104). -/
theorem ChannelDecoder.deassert_outputView (x : ChannelDecoder) :
    (x.outputView c).deassert.outputView c = x.deassert.outputView c := by
  have hbc : (x.outputView c).bc = x.bc := rfl
  by_cases h8 : x.bc.toNat = 8
  · rw [x.deassert_of_eight h8, ChannelDecoder.deassert_of_eight _ (by rw [hbc, h8])]
    rfl
  · by_cases h24 : x.bc.toNat = 24
    · rw [x.deassert_of_twentyFour h24, ChannelDecoder.deassert_of_twentyFour _ (by rw [hbc, h24])]
      cases c <;> rfl
    · rw [x.deassert_of_glitch h8 h24, ChannelDecoder.deassert_of_glitch _ (by rwa [hbc]) (by rwa [hbc])]
      cases c <;> rfl

theorem ChannelDecoder.assert_outputView (x : ChannelDecoder) :
    (x.outputView c).assert.outputView c = x.assert.outputView c := by
  cases c <;> rfl

theorem ChannelDecoder.clock_outputView (x : ChannelDecoder) (d : Bool) :
    ((x.outputView c).clock d).outputView c = (x.clock d).outputView c := by
  by_cases hsel : x.sel = true
  · rw [x.clock_of_sel d hsel, (x.outputView c).clock_of_sel d hsel]
    cases c <;> rfl
  · have hsel' := Bool.eq_false_of_not_eq_true hsel
    rw [x.clock_of_not_sel d hsel', (x.outputView c).clock_of_not_sel d hsel']
    cases c <;> rfl

/-- An event's effect on a decoder, as far as the view shows it, reads only what the view keeps. -/
theorem ChannelDecoder.onEvent_outputView (x : ChannelDecoder) (i : Instr) :
    ((x.outputView c).onEvent c i).outputView c = (x.onEvent c i).outputView c := by
  have hidem : (x.outputView c).outputView c = x.outputView c := by cases c <;> rfl
  cases i with
  | sckRise v => exact x.clock_outputView c _
  | csAssert c' =>
    rw [ChannelDecoder.onEvent, ChannelDecoder.onEvent]
    split
    · exact x.assert_outputView c
    · exact hidem
  | csDeassert c' =>
    rw [ChannelDecoder.onEvent, ChannelDecoder.onEvent]
    split
    · exact x.deassert_outputView c
    · exact hidem
  | _ => exact hidem

/-- What an answered or refused word shows: the view of the state after it, and the refusal. -/
def feedView (s : State) (w : EventWord) : State × Option Refusal :=
  ((feed s w).1.outputView, (feed s w).2)

theorem feedView_of_feed {s t : State} {w : EventWord} {r : Option Refusal} (h : feed s w = (t, r)) :
    feedView s w = (t.outputView, r) := by
  rw [feedView, h]

/-- A word shows the same from the view as from the state itself. -/
theorem feedView_outputView (w : EventWord) : feedView s.outputView w = feedView s w := by
  match hc : contextOf (decodeWord w) with
  | none =>
    rw [feedView_of_feed (feed_of_refused (exec_refused_of_noContext hc s)),
      feedView_of_feed (feed_of_refused (exec_refused_of_noContext hc s.outputView)), State.outputView_outputView]
  | some .interrupt =>
    have hrun := feed_of_interrupt hc s
    have hrun' := feed_of_interrupt hc s.outputView
    rw [feedView_of_feed hrun, feedView_of_feed hrun']
    refine congrArg (·, none) (State.outputView_eq (fun c => ?_) (fun c => by cases c <;> rfl) rfl rfl)
    have hch := feed_ch_get s w c
    have hch' := feed_ch_get s.outputView w c
    rw [hrun] at hch
    rw [hrun', State.outputView_ch_get] at hch'
    rw [hch, hch', ChannelDecoder.onEvent_outputView]
  | some .polling =>
    obtain ⟨c, hw⟩ | ⟨c, hw⟩ | hw | hw := polling_cases hc
    · rw [feedView_of_feed (feed_of_readCtrl hw), feedView_of_feed (feed_of_readCtrl hw)]
      cases c <;> rfl
    · rw [feedView_of_feed (feed_of_readDisp hw), feedView_of_feed (feed_of_readDisp hw)]
      cases c <;> rfl
    · by_cases hloaded : timeLoaded s = true
      · rw [feedView_of_feed (feed_of_publishTime hw hloaded),
          feedView_of_feed (feed_of_publishTime (s := s.outputView) hw hloaded)]
        rfl
      · rw [feedView_of_feed (feed_of_publishTime_not_loaded hw hloaded),
          feedView_of_feed (feed_of_publishTime_not_loaded (s := s.outputView) hw hloaded), State.outputView_outputView]
    · by_cases hloaded : statusLoaded s = true
      · rw [feedView_of_feed (feed_of_publishStatus hw hloaded),
          feedView_of_feed (feed_of_publishStatus (s := s.outputView) hw hloaded)]
        rfl
      · rw [feedView_of_feed (feed_of_publishStatus_not_loaded hw hloaded),
          feedView_of_feed (feed_of_publishStatus_not_loaded (s := s.outputView) hw hloaded),
          State.outputView_outputView]

end views

/-- From states with one view a trace leads to states with one view, with the same refusals on the way. -/
theorem runTrace_of_outputView_eq {s t : State} (h : s.outputView = t.outputView) (ws : List EventWord) :
    (runTrace s ws).1.outputView = (runTrace t ws).1.outputView ∧ (runTrace s ws).2 = (runTrace t ws).2 := by
  induction ws generalizing s t with
  | nil => exact ⟨h, rfl⟩
  | cons w ws ih =>
    have hfeed : feedView s w = feedView t w := by
      rw [← feedView_outputView s, h, feedView_outputView]
    obtain ⟨hview, hrefusal⟩ := Prod.mk.inj hfeed
    obtain ⟨hrest, hrefusals⟩ := ih hview
    exact ⟨hrest, by rw [runTrace, runTrace, hrefusal, hrefusals]⟩

/-- Settles O58: the two states have one view, which a trace keeps and which shows the sinks. -/
theorem countersAndRightControlReachNoOutput : Obligations.CountersAndRightControlReachNoOutput := by
  intro s s' ws hch hctrl hsnapL hsnapR htime hstatus
  have hview : s'.outputView = s.outputView := by
    refine State.outputView_eq (fun c => ?_) (fun c => ?_) htime hstatus
    · obtain ⟨ctrl, nCtrl, nDisp, hc⟩ := hch c
      cases c with
      | L =>
        have hkept : ctrl = s.ch.L.ctrl := (congrArg ChannelDecoder.ctrl hc).symm.trans hctrl
        rw [hc, hkept]
        rfl
      | R => rw [hc]; rfl
    · cases c with
      | L => rw [PerChannel.get_L, PerChannel.get_L, hsnapL]
      | R =>
        obtain ⟨ctrl, hR⟩ := hsnapR
        rw [PerChannel.get_R, PerChannel.get_R, hR]
        rfl
  obtain ⟨hsame, hrefusals⟩ := runTrace_of_outputView_eq hview ws
  obtain ⟨hsameTime, hsameStatus⟩ := State.sinks_eq_of_outputView_eq hsame
  exact ⟨hsameTime, hsameStatus, hrefusals⟩

end Sys2Proof.Machine

/-! PROOFS of 41_glyph_decode.md, 43_state_interpreter.md and 44_status_formatter.md. A mask test reads the mask's bits
(R131); the time is determined by the three glyphs and the off bit (R163), the status by the classification, two codes
and four option bits (R180 to R186), and each of these by a few bits of the registers. -/

namespace Sys2Proof.Machine

/-! ### Mask tests -/

theorem and_eq_right_iff {w : Nat} (x m : BitVec w) :
    x &&& m = m ↔ ∀ k, m.getLsbD k = true → x.getLsbD k = true := by
  refine ⟨fun h k hk => ?_, fun h => BitVec.eq_of_getLsbD_eq fun k _ => ?_⟩
  · rw [← h, BitVec.getLsbD_and] at hk
    exact (Bool.and_eq_true_iff.mp hk).1
  · rw [BitVec.getLsbD_and]
    cases hk : m.getLsbD k with
    | false => rw [Bool.and_false]
    | true => rw [h k hk, Bool.and_true]

theorem and_ne_zero_iff {w : Nat} (x m : BitVec w) :
    x &&& m ≠ 0#w ↔ ∃ k, m.getLsbD k = true ∧ x.getLsbD k = true := by
  refine ⟨fun h => ?_, fun ⟨k, hm, hx⟩ hzero => ?_⟩
  · by_contra hnone
    refine h (BitVec.eq_of_getLsbD_eq fun k _ => ?_)
    rw [BitVec.getLsbD_and, BitVec.getLsbD_zero, Bool.and_eq_false_iff]
    by_contra hboth
    simp only [not_or, Bool.not_eq_false] at hboth
    exact hnone ⟨k, hboth.2, hboth.1⟩
  · have hbit := congrArg (BitVec.getLsbD · k) hzero
    simp [hm, hx] at hbit

/-- The mask of glyph `i` has bits 6 and `i + 1` (R131). -/
theorem modeMask_getLsbD (i : Fin 3) (k : Nat) :
    (Config.modeMask i).getLsbD k = true ↔ k = 6 ∨ k = i.val + 1 := by
  have hmask : Config.modeMask i = BitVec.twoPow 8 6 ||| BitVec.twoPow 8 (i.val + 1) := by
    revert i
    decide
  rw [hmask]
  simp only [BitVec.getLsbD_or, BitVec.getLsbD_twoPow, Config.ctrlW_eq, Bool.or_eq_true, Bool.and_eq_true,
    decide_eq_true_eq]
  omega

theorem special_all_eq (i : Fin 3) (ctrl : CtrlWord) :
    special .all i ctrl = (ctrl.getLsbD 6 && ctrl.getLsbD (i.val + 1)) := by
  rw [Bool.eq_iff_iff, special, beq_iff_eq, and_eq_right_iff, Bool.and_eq_true_iff]
  simp only [modeMask_getLsbD, forall_eq_or_imp, forall_eq]

theorem special_any_eq (i : Fin 3) (ctrl : CtrlWord) :
    special .any i ctrl = (ctrl.getLsbD 6 || ctrl.getLsbD (i.val + 1)) := by
  rw [Bool.eq_iff_iff, special, bne_iff_ne, Bool.or_eq_true_iff]
  refine (and_ne_zero_iff ctrl _).trans ?_
  simp only [modeMask_getLsbD, exists_eq_or_imp, exists_eq_left]

/-- Settles O44: a mask's bits are all set, or one of them is. -/
theorem specialModeBits : Obligations.SpecialModeBits :=
  fun i ctrl => ⟨special_all_eq i ctrl, special_any_eq i ctrl, rfl⟩

/-! ### The time -/

theorem minutesText_toList (g1 g0 : Char) :
    (minutesText g1 g0).toList = if g1 = ' ' then [g0] else [g1, g0] := by
  unfold minutesText
  split
  · simp
  · simp

section time
variable {t : ModeTest} {lc : CtrlWord} {ld : DispWord}

theorem formatTime_of_off (hoff : lc.getLsbD 0 = false) : formatTime t lc ld = " " :=
  if_pos ((isDisplayOff_iff lc).mpr hoff)

theorem formatTime_of_on (hon : lc.getLsbD 0 = true) :
    formatTime t lc ld = timeOfGlyphs (glyph t 2 lc ld) (glyph t 1 lc ld) (glyph t 0 lc ld) :=
  if_neg (by simp [isDisplayOff_iff, hon])

end time

section timeOfGlyphs
variable {g2 g1 g0 : Char}

theorem timeOfGlyphs_of_dash (h : g0 = '-') : timeOfGlyphs g2 g1 g0 = "---" :=
  if_pos h

theorem timeOfGlyphs_of_blank (h : g0 = ' ') : timeOfGlyphs g2 g1 g0 = " " := by
  subst h
  rfl

/-- With a low glyph to show, the minutes, and the hours where the high glyph is not blank (R163). -/
theorem timeOfGlyphs_toList (hdash : g0 ≠ '-') (hblank : g0 ≠ ' ') :
    (timeOfGlyphs g2 g1 g0).toList =
      if g2 = ' ' then (minutesText g1 g0).toList ++ [' ', 'm', 'i', 'n']
      else [g2, 'h', ' '] ++ (minutesText g1 g0).toList ++ ['m'] := by
  rw [timeOfGlyphs, if_neg hdash, if_neg hblank]
  by_cases h2 : g2 = ' '
  · simp [h2]
  · simp [h2]

end timeOfGlyphs

/-- Settles O46: the case chain of the time, on characters. -/
theorem timeByItsGlyphs : Obligations.TimeByItsGlyphs := by
  intro t lc ld g0 g1 g2 mins
  cases hbit : lc.getLsbD 0 with
  | false => rw [formatTime_of_off hbit]; rfl
  | true =>
    rw [formatTime_of_on hbit, if_neg (by decide)]
    by_cases hdash : g0 = '-'
    · rw [if_pos hdash, timeOfGlyphs_of_dash hdash]; rfl
    · rw [if_neg hdash]
      by_cases hblank : g0 = ' '
      · rw [if_pos hblank, timeOfGlyphs_of_blank hblank]; rfl
      · rw [if_neg hblank, timeOfGlyphs_toList hdash hblank, minutesText_toList]

/-- With another low glyph than '-' the time is not the dashes: it is blank, or ends in "m" or "min". -/
theorem timeOfGlyphs_ne_dashes {g2 g1 g0 : Char} (hdash : g0 ≠ '-') : timeOfGlyphs g2 g1 g0 ≠ "---" := by
  by_cases hblank : g0 = ' '
  · rw [timeOfGlyphs_of_blank hblank]
    decide
  · intro h
    have hlast := congrArg (fun x : String => x.toList.getLast?) h
    have hdashes : ("---" : String).toList.getLast? = some '-' := by decide
    simp only [timeOfGlyphs_toList hdash hblank, hdashes] at hlast
    split at hlast
    · simp at hlast
    · rw [List.getLast?_append] at hlast
      simp at hlast

theorem decodeGlyph_eq_dash_iff (n : Nibble) (isSpecial : Bool) :
    decodeGlyph n isSpecial = '-' ↔ isSpecial = true ∧ n = 0xD := by
  revert n isSpecial
  decide

/-- The low glyph is the dash exactly where it is special and its nibble is 0xD (R130, R132). -/
theorem glyph_zero_eq_dash_iff (t : ModeTest) (lc : CtrlWord) (ld : DispWord) :
    glyph t 0 lc ld = '-' ↔ special t 0 lc = true ∧ ld.extractLsb' 0 4 = 0xD#4 :=
  decodeGlyph_eq_dash_iff (glyphNibble 0 ld) (special t 0 lc)

/-- Settles O47: with the display off neither holds; with it on, both are that the low glyph is the dash. -/
theorem dashesExactlyOnFault : Obligations.DashesExactlyOnFault := by
  intro t lc ld
  rw [← glyph_zero_eq_dash_iff]
  cases hbit : lc.getLsbD 0 with
  | false => simp [decodeState_of_off hbit, formatTime_of_off hbit]
  | true =>
    rw [formatTime_of_on hbit]
    by_cases hdash : glyph t 0 lc ld = '-'
    · rw [decodeState_of_dash hbit hdash, timeOfGlyphs_of_dash hdash]
      simp [hdash]
    · simp [decodeState_of_not_dash hbit hdash, timeOfGlyphs_ne_dashes hdash, hdash]

/-! ### The codes and their labels -/

section codes
variable (rd : DispWord) {i : Nat} (hi : i < 8)
include hi

/-- The progress masks let bits 2:0 through in place and bits 15:12 to places 7:4 (R182). -/
theorem progressCode_getLsbD :
    (progressCode rd).getLsbD i = if i < 3 then rd.getLsbD i else if i < 4 then false else rd.getLsbD (i + 8) := by
  interval_cases i <;> simp [progressCode]

/-- The centrifuge mask lets bits 22:17 through to places 6:1 (R184). -/
theorem spinCode_getLsbD :
    (spinCode rd).getLsbD i = if i < 1 then false else if i < 7 then rd.getLsbD (i + 16) else false := by
  interval_cases i <;> simp [spinCode]

theorem progressBits_getLsbD :
    (rd.extractLsb' 12 4 ++ 0#1 ++ rd.extractLsb' 0 3).getLsbD i =
      if i < 3 then rd.getLsbD i else if i < 4 then false else rd.getLsbD (i + 8) := by
  rw [BitVec.getLsbD_append, BitVec.getLsbD_append]
  interval_cases i <;> simp

theorem spinBits_getLsbD :
    (0#1 ++ rd.extractLsb' 17 6 ++ 0#1).getLsbD i =
      if i < 1 then false else if i < 7 then rd.getLsbD (i + 16) else false := by
  rw [BitVec.getLsbD_append, BitVec.getLsbD_append]
  interval_cases i <;> simp

end codes

/-- Settles O48: each bit of a code is a bit of the register that its mask lets through, or none. -/
theorem progressAndSpinCodesByBits : Obligations.ProgressAndSpinCodesByBits :=
  fun rd => ⟨
    BitVec.eq_of_getLsbD_eq fun _ hi => (progressCode_getLsbD rd hi).trans (progressBits_getLsbD rd hi).symm,
    BitVec.eq_of_getLsbD_eq fun _ hi => (spinCode_getLsbD rd hi).trans (spinBits_getLsbD rd hi).symm⟩

theorem lookup_cons_eq_ite (n k : Nat) (x : String) (l : List (Nat × String)) :
    ((k, x) :: l).lookup n = if n = k then some x else l.lookup n := by
  by_cases h : n = k
  · simp [h]
  · simp [List.lookup_cons, h, beq_eq_false_iff_ne.mpr h]

/-- Settles O49: a listed code selects its own entry of the table, and any other code passes every entry. -/
theorem phaseAndSpinLabelTables : Obligations.PhaseAndSpinLabelTables := by
  intro rd g2 g1 g0
  refine ⟨?_, ?_⟩
  · unfold progressLabel
    split <;> simp_all [lookup_cons_eq_ite, finishedOrIdle]
  · unfold spinLabel
    split <;> simp_all [lookup_cons_eq_ite]

/-! ### The status -/

/-- The model's join is the library's (R8). -/
theorem joinLabels_eq_intercalate (sep : String) : ∀ xs, joinLabels sep xs = String.intercalate sep xs
  | [] => rfl
  | [x] => String.intercalate_singleton.symm
  | x :: y :: xs => by
    rw [joinLabels, String.intercalate_cons_cons, joinLabels_eq_intercalate sep (y :: xs)]

/-- Settles O51: the labels are joined as the library joins strings. -/
theorem statusByItsClassification : Obligations.StatusByItsClassification := by
  intro t lc ld rd
  rw [formatState, joinLabels_eq_intercalate, statusLabels]
  rfl

/-! ### The bits the formatters read -/

theorem extractLsb'_congr {w start len : Nat} {x y : BitVec w}
    (h : ∀ k, start ≤ k → k < start + len → x.getLsbD k = y.getLsbD k) :
    x.extractLsb' start len = y.extractLsb' start len := by
  refine BitVec.eq_of_getLsbD_eq fun i hi => ?_
  rw [BitVec.getLsbD_extractLsb', BitVec.getLsbD_extractLsb', h (start + i) (by omega) (by omega)]

section leftBits
variable {lc lc' : CtrlWord} {ld ld' : DispWord}
  (hlc : ∀ k, k ∈ [0, 1, 2, 3, 6] → lc.getLsbD k = lc'.getLsbD k) (hld : ∀ k, k < 12 → ld.getLsbD k = ld'.getLsbD k)

include hlc in
theorem isDisplayOff_congr : isDisplayOff lc = isDisplayOff lc' := by
  rw [isDisplayOff, isDisplayOff, hlc 0 (by decide)]

include hlc in
/-- A mask test reads bit 6 and one of bits 1 to 3 (R131). -/
theorem special_congr (t : ModeTest) (i : Fin 3) : special t i lc = special t i lc' := by
  have h6 := hlc 6 (by decide)
  have hi := hlc (i.val + 1) (by revert i; decide)
  cases t with
  | all => rw [special_all_eq, special_all_eq, h6, hi]
  | any => rw [special_any_eq, special_any_eq, h6, hi]

include hld in
theorem glyphNibble_congr (i : Fin 3) : glyphNibble i ld = glyphNibble i ld' :=
  extractLsb'_congr fun k _ hk => hld k (by omega)

include hlc hld in
theorem glyph_congr (t : ModeTest) (i : Fin 3) : glyph t i lc ld = glyph t i lc' ld' := by
  rw [glyph, glyph, glyphNibble_congr hld, special_congr hlc]

include hlc hld in
theorem formatTime_congr (t : ModeTest) : formatTime t lc ld = formatTime t lc' ld' := by
  simp only [formatTime, isDisplayOff_congr hlc, glyph_congr hlc hld]

include hlc hld in
theorem decodeState_congr (t : ModeTest) : decodeState t lc ld = decodeState t lc' ld' := by
  simp only [decodeState, isDisplayOff_congr hlc, glyph_congr hlc hld]

end leftBits

section rightBits
variable {rd rd' : DispWord}
  (hrd : ∀ k, k ≤ 2 ∨ (6 ≤ k ∧ k ≤ 8) ∨ (12 ≤ k ∧ k ≤ 22) → rd.getLsbD k = rd'.getLsbD k)
include hrd

theorem progressCode_congr : progressCode rd = progressCode rd' := by
  rw [(progressAndSpinCodesByBits rd).1, (progressAndSpinCodesByBits rd').1,
    extractLsb'_congr (start := 12) fun k _ _ => hrd k (by omega),
    extractLsb'_congr (start := 0) fun k _ _ => hrd k (by omega)]

theorem spinCode_congr : spinCode rd = spinCode rd' := by
  rw [(progressAndSpinCodesByBits rd).2, (progressAndSpinCodesByBits rd').2,
    extractLsb'_congr fun k _ _ => hrd k (by omega)]

theorem optionLabels_congr : optionLabels rd = optionLabels rd' := by
  rw [optionLabels, optionLabels, optPrewash_eq_getLsbD, optShort_eq_getLsbD, optWaterPlus_eq_getLsbD,
    optSummer_eq_getLsbD, hrd 8 (by decide), hrd 6 (by decide), hrd 7 (by decide), hrd 16 (by decide),
    optPrewash_eq_getLsbD, optShort_eq_getLsbD, optWaterPlus_eq_getLsbD, optSummer_eq_getLsbD]

theorem progressLabel_congr (g2 g1 g0 : Char) : progressLabel rd g2 g1 g0 = progressLabel rd' g2 g1 g0 := by
  rw [progressLabel, progressLabel, progressCode_congr hrd]

theorem spinLabel_congr : spinLabel rd = spinLabel rd' := by
  rw [spinLabel, spinLabel, spinCode_congr hrd]

end rightBits

/-- Settles O52: each part of the two strings reads only listed bits. -/
theorem formattersReadOnlyTheirBits : Obligations.FormattersReadOnlyTheirBits := by
  intro t lc lc' ld ld' rd rd' hlc hld
  refine ⟨formatTime_congr hlc hld t, fun hrd => ?_⟩
  simp only [formatState, statusLabels, phaseLabels, decodeState_congr hlc hld, glyph_congr hlc hld,
    progressLabel_congr hrd, spinLabel_congr hrd, optionLabels_congr hrd]

/-! ### Line transitions -/

theorem selectWord_L (v : Level) : eventWord 1 .L v = if v = .high then 0b00101#5 else 0b00100#5 := by
  cases v <;> decide

theorem selectWord_R (v : Level) : eventWord 1 .R v = if v = .high then 0b00111#5 else 0b00110#5 := by
  cases v <;> decide

theorem clockEventWord (v : Level) : eventWord 0 .L v = if v = .high then 0b00001#5 else 0b00000#5 := by
  cases v <;> decide

/-- Settles O54: a handler's word carries the level of its own line. -/
theorem lineEdgesDeliverTheirEvents : Obligations.LineEdgesDeliverTheirEvents :=
  fun l => ⟨congrArg some (selectWord_L l.csL), congrArg some (selectWord_R l.csR),
    congrArg some (clockEventWord l.data)⟩

end Sys2Proof.Machine
